-- ==== Sys2Proof/Word.lean ====
section
/-! DEFINITION. The word types of the block: a byte is a `u8` (00_scope.md R10). -/

namespace Sys2Proof

/-- A `u8` (00_scope.md R10). -/
abbrev Byte := BitVec 8

end Sys2Proof
end

