-- ==== Sys2Proof/Config.lean ====
section
/-! DEFINITION. What an implementation fixes: the types of the build-time parameters of 00_scope.md R7, and
the free values (values the spec does not state), opaque constants that nothing can evaluate. The constants of
R9 and the default of every parameter stand in Machine/Params.lean. -/

namespace Sys2Proof

/-- The constellation tags (00_scope.md R18, 30_encoding.md R112). -/
inductive Tag where
  | gps | sbas | galileo | beidou | qzss | glonass
deriving DecidableEq, Repr

/-- `NUMERICS`: how the derived real values are computed (00_scope.md R7, R15). -/
inductive Numerics where
  | binary64
  | exact
deriving DecidableEq, Repr

/-- `ROUND_MODE`: what `round` does with a tie (00_scope.md R7, R15). -/
inductive RoundMode where
  | halfEven
  | halfAway
deriving DecidableEq, Repr

/-- `C_LIGHT`, a positive real (00_scope.md R7), as far as a rule can see it (log 12). -/
inductive LightSpeed where
  /-- A rational. -/
  | rational (q : Rat)
  /-- A real that is no rational, with its nearest binary64 word, all that `BINARY64` uses of it (R15). Under
  `EXACT` it is never evaluated: a pseudorange is a rational times it. -/
  | irrational (word : BitVec 64)
deriving DecidableEq, Repr

/-- `BLK_LAYOUT`: offsets inside a 64-byte block (00_scope.md R7, 30_encoding.md R107). -/
structure BlkLayout where
  rawTime : Nat
  rawAdr : Nat
  rawDop : Nat
  rawSnr : Nat
  qi : Nat
  flag : Nat
  gnss : Nat
  sv : Nat
deriving DecidableEq, Repr

/-- `SF_LAYOUT`: positions in the 240-bit string, counted from the left (00_scope.md R7, 30_encoding.md R111). -/
structure SfLayout where
  towRaw : Nat
  sfid : Nat
  wn : Nat
  codeL2 : Nat
  ura : Nat
  health : Nat
  iodcHi : Nat
  tgdRaw : Nat
  iodcLo : Nat
  tocRaw : Nat
  af2Raw : Nat
  af1Raw : Nat
  af0Raw : Nat
deriving DecidableEq, Repr

/-- The build-time parameters of 00_scope.md R7 that a rule depends on (log 11). `T_BYTE` and `T_DECODE` are
cycle counts that no rule reads (70_reset_and_hazards.md R392, log 23). -/
structure Params where
  /-- `BUF_CAP`, in bytes. -/
  bufCap : Nat
  /-- `CHECK_CHECKSUM`. -/
  checkChecksum : Bool
  /-- `CONST_RANK`: the six tags, lowest rank first. -/
  constRank : List Tag
  /-- `NUMERICS`. -/
  numerics : Numerics
  /-- `ROUND_MODE`. -/
  roundMode : RoundMode
  /-- `C_LIGHT` in m/s (log 12). -/
  cLight : LightSpeed
  /-- `GNSS_CODES`: the pairs (code, tag) of the partial map. -/
  gnssCodes : List (Byte × Tag)
  /-- `NAV_GNSS_OFF`. -/
  navGnssOff : Nat
  /-- `BLK_LAYOUT`. -/
  blk : BlkLayout
  /-- `SF_LAYOUT`. -/
  sf : SfLayout
deriving DecidableEq, Repr

/-- FREE VALUE (log 7). What a bit-field operation gives for operands outside `1 ≤ n ≤ 24`, `a + n ≤ 240`
(40_field_reader.md R156, R157): no rule states a result there. The first argument says whether the
operation is the signed one. -/
opaque Config.bfOutside (signed : Bool) (frm : BitVec 240) (a n : Nat) : Int

/-- FREE VALUE (log 8). What `ERR.off`, a u16 (10_state.md R45), carries for a failing payload offset of
65536 or more, which the exact offset arithmetic of 40_field_reader.md R160 can form. -/
opaque Config.errOffBeyond (payload : List Byte) (off : Nat) : BitVec 16

end Sys2Proof
end

