-- ==== Sys2Proof/Machine/Params.lean ====
section
/-! DEFINITION. The constants the source fixes (00_scope.md R9), the default of every build-time parameter
(R7, 30_encoding.md R107, R111, R112), and the capacities derived from them (R8). -/

namespace Sys2Proof.Machine

/-- `SYNC1` (00_scope.md R9). -/
def sync1 : Byte := 0xB5

/-- `SYNC2` (00_scope.md R9). -/
def sync2 : Byte := 0x62

/-- `HDR_LEN`: class, id and two length bytes (00_scope.md R9). -/
def hdrLen : Nat := 4

/-- `TRL_LEN`: the checksum trailer (00_scope.md R9). -/
def trlLen : Nat := 2

/-- `CLS_TRK` (00_scope.md R9). -/
def clsTrk : Byte := 0x03

/-- `ID_RAW` (00_scope.md R9). -/
def idRaw : Byte := 0x0A

/-- `ID_NAV` (00_scope.md R9). -/
def idNav : Byte := 0x0F

/-- `RAW_TYPE` (00_scope.md R9). -/
def rawType : Nat := 6

/-- `RAW_HDR` in bytes (00_scope.md R9). -/
def rawHdr : Nat := 80

/-- `RAW_BLK` in bytes (00_scope.md R9). -/
def rawBlk : Nat := 64

/-- `QI_MIN` (00_scope.md R9). -/
def qiMin : Nat := 4

/-- The upper bound of "quality indicator in [4, 7]" (43_raw_measurement.md R250). -/
def qiMax : Nat := 7

/-- `QI_ADR` (00_scope.md R9). -/
def qiAdr : Nat := 6

/-- `GLO_OFFSET` in seconds (00_scope.md R9). -/
def gloOffset : Int := 10800

/-- `TICK` in seconds, the decimal literal 0.1 (00_scope.md R9). -/
def tick : Rat := mkRat 1 10

/-- `TICK_BIAS` in seconds, the decimal literal 0.08 (00_scope.md R9). -/
def tickBias : Rat := mkRat 8 100

/-- `HALF_WEEK` in seconds (00_scope.md R9). -/
def halfWeek : Int := 302400

/-- `WEEK` in seconds (00_scope.md R9). -/
def week : Int := 604800

/-- `QZSS_PRN_OFFSET` (00_scope.md R9). -/
def qzssPrnOffset : Nat := 192

/-- `NAV_WORD_OFF` (00_scope.md R9). -/
def navWordOff : Nat := 13

/-- `NAV_WORDS` (00_scope.md R9). -/
def navWords : Nat := 10

/-- `PARITY_BITS` (00_scope.md R9). -/
def parityBits : Nat := 6

/-- `DATA_BITS` (00_scope.md R9). -/
def dataWidth : Nat := 24

/-- Default of `BLK_LAYOUT` (30_encoding.md R107). -/
def defaultBlk : BlkLayout where
  rawTime := 0
  rawAdr := 8
  rawDop := 16
  rawSnr := 32
  qi := 41
  flag := 54
  gnss := 56
  sv := 57

/-- Default of `SF_LAYOUT` (30_encoding.md R111). -/
def defaultSf : SfLayout where
  towRaw := 24
  sfid := 43
  wn := 48
  codeL2 := 58
  ura := 60
  health := 64
  iodcHi := 70
  tgdRaw := 160
  iodcLo := 168
  tocRaw := 176
  af2Raw := 192
  af1Raw := 200
  af0Raw := 216

/-- Default of `GNSS_CODES` (30_encoding.md R112). -/
def defaultGnssCodes : List (Byte × Tag) :=
  [(0, .gps), (1, .sbas), (2, .galileo), (3, .beidou), (5, .qzss), (6, .glonass)]

/-- Default of `CONST_RANK`: the ASCII order of the tag names (00_scope.md R7). -/
def defaultConstRank : List Tag := [.beidou, .glonass, .gps, .galileo, .qzss, .sbas]

/-- Every parameter at its default (00_scope.md R7). -/
def defaultParams : Params where
  bufCap := 65541
  checkChecksum := false
  constRank := defaultConstRank
  numerics := .binary64
  roundMode := .halfEven
  cLight := .rational 299792458
  gnssCodes := defaultGnssCodes
  navGnssOff := 1
  blk := defaultBlk
  sf := defaultSf

/-- `LMAX`, the longest payload (00_scope.md R8). -/
def lmax (par : Params) : Nat := par.bufCap - 6

/-- `MAX_OBS`, the capacity of the observation store: `max(0, ceil((LMAX - 80) / 64))` (00_scope.md R8). -/
def maxObs (par : Params) : Nat := (lmax par - rawHdr + (rawBlk - 1)) / rawBlk

/-- The pairs' first entry for a code (00_scope.md R7: `GNSS_CODES` is a partial map). -/
def lookupCode (g : Byte) : List (Byte × Tag) → Option Tag
  | [] => none
  | (c, t) :: rest => if c = g then some t else lookupCode g rest

/-- `tag(g)`: the constellation of code `g`, or none (30_encoding.md R112). -/
def tagOf (par : Params) (g : Byte) : Option Tag := lookupCode g par.gnssCodes

/-- The rank of a tag: its place in `CONST_RANK` (00_scope.md R7). -/
def rankOf (par : Params) (t : Tag) : Nat := par.constRank.idxOf t

end Sys2Proof.Machine
end

