-- ==== Sys2Proof/Syntax.lean ====
section
/-! DEFINITION. The operations of the block: one constructor for each row of spec/opcode_table.json, at the
six decode levels of 30_encoding.md R122. -/

namespace Sys2Proof

/-- The operations. A field the row's key leaves free is an argument; a row whose key is fixed has none.
The reader rows carry the operands of 30_encoding.md R120. -/
inductive Instr where
  /-- `SYNC.IDLE.HIT` (41_frame_sync.md R181). -/
  | syncIdleHit
  /-- `SYNC.IDLE.MISS`, the byte `b` (41_frame_sync.md R182). -/
  | syncIdleMiss (b : Byte)
  /-- `SYNC.SEEN1.HIT` (41_frame_sync.md R183). -/
  | syncSeen1Hit
  /-- `SYNC.SEEN1.MISS`, the byte `b` (41_frame_sync.md R184). -/
  | syncSeen1Miss (b : Byte)
  /-- `SYNC.ACC.APPEND`, the byte `b` (41_frame_sync.md R185 to R188). -/
  | syncAccAppend (b : Byte)
  /-- `TRK.RAW` (42_dispatch.md R221). -/
  | trkRaw
  /-- `TRK.NAV` (42_dispatch.md R222). -/
  | trkNav
  /-- `IGNORE`, the pair `(cls, id)` (42_dispatch.md R223). -/
  | ignore (cls id : Byte)
  /-- `RAW.T6` (43_raw_measurement.md R240). -/
  | rawT6
  /-- `RAW.OTHER`, the discriminator (43_raw_measurement.md R241). -/
  | rawOther (type : Byte)
  /-- `NAV.GPS` (44_nav_subframe.md R300). -/
  | navGps
  /-- `NAV.OTHER`, the constellation code (44_nav_subframe.md R301). -/
  | navOther (gnss : Byte)
  /-- `SF.1` (44_nav_subframe.md R307). -/
  | sf1
  /-- `SF.2_3`, `lo` the low bit of the subframe id `01 lo` (44_nav_subframe.md R306). -/
  | sf23 (lo : BitVec 1)
  /-- `SF.4_5`, `lo` the low bit of the subframe id `10 lo` (44_nav_subframe.md R306). -/
  | sf45 (lo : BitVec 1)
  /-- `SF.BAD`, the subframe id (44_nav_subframe.md R305). -/
  | sfBad (sfid : BitVec 3)
  /-- `RD.U8 off` (40_field_reader.md R151). -/
  | rdU8 (off : BitVec 16)
  /-- `RD.U16 off` (40_field_reader.md R152). -/
  | rdU16 (off : BitVec 16)
  /-- `RD.U32 off` (40_field_reader.md R153). -/
  | rdU32 (off : BitVec 16)
  /-- `RD.I32 off` (40_field_reader.md R154). -/
  | rdI32 (off : BitVec 16)
  /-- `RD.I64 off` (40_field_reader.md R155). -/
  | rdI64 (off : BitVec 16)
  /-- `BF.U a, n` (40_field_reader.md R156). -/
  | bfU (a : BitVec 8) (n : BitVec 6)
  /-- `BF.S a, n` (40_field_reader.md R157). -/
  | bfS (a : BitVec 8) (n : BitVec 6)
deriving DecidableEq, Repr

end Sys2Proof
end

