-- ==== Sys2Proof/WellFormed.lean ====
section
/-! DEFINITION. Which terms are operations the spec has: the checks on an operation's fields, and the checks
that a value of the build-time parameters is legal (00_scope.md R7). -/

namespace Sys2Proof

open Sys2Proof.Machine

/-- An `IDLE` miss is any byte but `SYNC1` (41_frame_sync.md R182). -/
def checkIdleMiss (b : Byte) : Bool := b ≠ sync1

/-- A `SEEN1` miss is any byte but `SYNC2` (41_frame_sync.md R184). -/
def checkSeen1Miss (b : Byte) : Bool := b ≠ sync2

/-- An ignored pair is neither handled pair (42_dispatch.md R223). -/
def checkIgnore (cls id : Byte) : Bool := (cls, id) ≠ (clsTrk, idRaw) ∧ (cls, id) ≠ (clsTrk, idNav)

/-- Another discriminator is any byte but 6 (43_raw_measurement.md R241). -/
def checkRawOther (type : Byte) : Bool := type.toNat ≠ rawType

/-- Another constellation code is any byte but 0, which every legal `GNSS_CODES` sends to GPS
(30_encoding.md R113, 44_nav_subframe.md R301). -/
def checkNavOther (gnss : Byte) : Bool := gnss ≠ 0

/-- A bad subframe id is 0, 6 or 7 (44_nav_subframe.md R305). -/
def checkSfBad (sfid : BitVec 3) : Bool := sfid = 0 ∨ sfid = 6 ∨ sfid = 7

/-- A bit field is 1 to 24 bits wide (40_field_reader.md R156). -/
def checkBfWidth (n : BitVec 6) : Bool := 1 ≤ n.toNat ∧ n.toNat ≤ 24

/-- A bit field ends inside the 240-bit string (40_field_reader.md R156). -/
def checkBfEnd (a : BitVec 8) (n : BitVec 6) : Bool := a.toNat + n.toNat ≤ 240

/-- The fields of an operation are ones its row admits. -/
def Instr.wf : Instr → Bool
  | .syncIdleHit => true
  | .syncIdleMiss b => checkIdleMiss b
  | .syncSeen1Hit => true
  | .syncSeen1Miss b => checkSeen1Miss b
  | .syncAccAppend _ => true
  | .trkRaw => true
  | .trkNav => true
  | .ignore c i => checkIgnore c i
  | .rawT6 => true
  | .rawOther t => checkRawOther t
  | .navGps => true
  | .navOther g => checkNavOther g
  | .sf1 => true
  | .sf23 _ => true
  | .sf45 _ => true
  | .sfBad x => checkSfBad x
  | .rdU8 _ => true
  | .rdU16 _ => true
  | .rdU32 _ => true
  | .rdI32 _ => true
  | .rdI64 _ => true
  | .bfU a n => checkBfWidth n && checkBfEnd a n
  | .bfS a n => checkBfWidth n && checkBfEnd a n

/-- `6 ≤ BUF_CAP ≤ 65541` (00_scope.md R7). -/
def checkBufCap (par : Params) : Bool := 6 ≤ par.bufCap ∧ par.bufCap ≤ 65541

/-- `CONST_RANK` is a strict total order on the six tags: each tag stands in it exactly once (00_scope.md R7). -/
def checkConstRank (par : Params) : Bool :=
  par.constRank.length = 6 ∧ par.constRank.Nodup

/-- `CONST_RANK` puts GPS before SBAS (00_scope.md R7). -/
def checkGpsBeforeSbas (par : Params) : Bool := rankOf par .gps < rankOf par .sbas

/-- `C_LIGHT` is positive (00_scope.md R7). The binary64 word nearest to a positive real that is no rational is
not negative and not NaN: zero below half the least word, infinity past the largest. -/
def checkCLight (par : Params) : Bool :=
  match par.cLight with
  | .rational q => 0 < q
  | .irrational w => w ≤ 0x7FF0000000000000

/-- `GNSS_CODES` is a map: no code stands twice (00_scope.md R7). -/
def checkCodesMap (par : Params) : Bool := (par.gnssCodes.map Prod.fst).Nodup

/-- `GNSS_CODES` is injective: no tag stands twice (00_scope.md R7). -/
def checkCodesInjective (par : Params) : Bool := (par.gnssCodes.map Prod.snd).Nodup

/-- `GNSS_CODES` sends 0 to GPS (00_scope.md R7). -/
def checkCodesGps (par : Params) : Bool := tagOf par 0 = some .gps

/-- `NAV_GNSS_OFF` is 0 to 12 (00_scope.md R7). -/
def checkNavGnssOff (par : Params) : Bool := par.navGnssOff ≤ 12

/-- `BLK_LAYOUT` keeps each field inside the 64-byte block (00_scope.md R7). -/
def checkBlk (b : BlkLayout) : Bool :=
  b.rawTime + 8 ≤ 64 ∧ b.rawAdr + 8 ≤ 64 ∧ b.rawDop + 4 ≤ 64 ∧ b.rawSnr + 2 ≤ 64 ∧
  b.qi + 1 ≤ 64 ∧ b.flag + 1 ≤ 64 ∧ b.gnss + 1 ≤ 64 ∧ b.sv + 1 ≤ 64

/-- `SF_LAYOUT` keeps each field inside the 240-bit string (00_scope.md R7). -/
def checkSf (f : SfLayout) : Bool :=
  f.towRaw + 17 ≤ 240 ∧ f.sfid + 3 ≤ 240 ∧ f.wn + 10 ≤ 240 ∧ f.codeL2 + 2 ≤ 240 ∧
  f.ura + 4 ≤ 240 ∧ f.health + 6 ≤ 240 ∧ f.iodcHi + 2 ≤ 240 ∧ f.tgdRaw + 8 ≤ 240 ∧
  f.iodcLo + 8 ≤ 240 ∧ f.tocRaw + 16 ≤ 240 ∧ f.af2Raw + 8 ≤ 240 ∧ f.af1Raw + 16 ≤ 240 ∧
  f.af0Raw + 22 ≤ 240

/-- Every parameter has a legal value (00_scope.md R7). -/
def Params.legal (par : Params) : Bool :=
  checkBufCap par && checkConstRank par && checkGpsBeforeSbas par && checkCLight par &&
  checkCodesMap par && checkCodesInjective par && checkCodesGps par && checkNavGnssOff par &&
  checkBlk par.blk && checkSf par.sf

end Sys2Proof
end

