-- ==== Sys2Proof/Decode.lean ====
section
/-! DEFINITION. The decode levels of 30_encoding.md R122: each level has its own key word; a row is selected
when `(key & mask) = match`, the rows of a level are tried in table order and the first match wins. After the
decoder, the encoder: the key of an operation, from the same tables (R104, R105, R113, R120). -/

namespace Sys2Proof

/-- The key of an operation below the byte level: what a completed frame, a payload, a subframe or a decoder's
read hands the next level to select on (30_encoding.md R122). -/
inductive InnerKey where
  /-- `OPC` (30_encoding.md R103). -/
  | frame (opc : BitVec 16)
  /-- `MemRead(0, 1)` of a raw payload (R113). -/
  | raw (type : Byte)
  /-- The constellation code of a navigation payload (R113). -/
  | nav (gnss : Byte)
  /-- The subframe id (R113). -/
  | subframe (sfid : BitVec 3)
  /-- The reader's code and operand wires (R120). -/
  | reader (rdOp : BitVec 3) (off : BitVec 16) (a : BitVec 8) (n : BitVec 6)
deriving DecidableEq, Repr

/-- A key at any level: `K = (st << 8) | b` for an input byte (30_encoding.md R122), or an inner key. -/
inductive Key where
  | byte (k : BitVec 10)
  | inner (k : InnerKey)
deriving DecidableEq, Repr

/-- Why a key has no row (30_encoding.md R122: "No row matches a key with `st = 3` or `rd_op = 111`"). -/
inductive Reject where
  /-- `st` code 3 (10_state.md R34, 93_implementation_defined.md I2). -/
  | unusedStateCode
  /-- `rd_op` 111 (40_field_reader.md R158, 93_implementation_defined.md I3). -/
  | reservedReaderOp
deriving DecidableEq, Repr

/-- The input-byte level (30_encoding.md R105, R122). -/
def decodeByte (k : BitVec 10) : Except Reject Instr :=
  if k &&& 0x3FF = 0x0B5 then .ok .syncIdleHit
  else if k &&& 0x300 = 0x000 then .ok (.syncIdleMiss (k.setWidth 8))
  else if k &&& 0x3FF = 0x162 then .ok .syncSeen1Hit
  else if k &&& 0x300 = 0x100 then .ok (.syncSeen1Miss (k.setWidth 8))
  else if k &&& 0x300 = 0x200 then .ok (.syncAccAppend (k.setWidth 8))
  else .error .unusedStateCode

/-- The frame level: an exact match on all 16 bits (30_encoding.md R104). -/
def decodeFrame (opc : BitVec 16) : Instr :=
  if opc &&& 0xFFFF = 0x030A then .trkRaw
  else if opc &&& 0xFFFF = 0x030F then .trkNav
  else .ignore (opc.extractLsb' 8 8) (opc.setWidth 8)

/-- The raw-payload level (30_encoding.md R113). -/
def decodeRaw (type : Byte) : Instr :=
  if type &&& 0xFF = 0x06 then .rawT6 else .rawOther type

/-- The navigation-payload level (30_encoding.md R113). -/
def decodeNav (gnss : Byte) : Instr :=
  if gnss &&& 0xFF = 0x00 then .navGps else .navOther gnss

/-- The subframe level (30_encoding.md R113). -/
def decodeSubframe (sfid : BitVec 3) : Instr :=
  if sfid &&& 0b111 = 0b001 then .sf1
  else if sfid &&& 0b110 = 0b010 then .sf23 (sfid.setWidth 1)
  else if sfid &&& 0b110 = 0b100 then .sf45 (sfid.setWidth 1)
  else .sfBad sfid

/-- The reader level (30_encoding.md R120). -/
def decodeReader (rdOp : BitVec 3) (off : BitVec 16) (a : BitVec 8) (n : BitVec 6) : Except Reject Instr :=
  if rdOp = 0b000 then .ok (.rdU8 off)
  else if rdOp = 0b001 then .ok (.rdU16 off)
  else if rdOp = 0b010 then .ok (.rdU32 off)
  else if rdOp = 0b011 then .ok (.rdI32 off)
  else if rdOp = 0b100 then .ok (.rdI64 off)
  else if rdOp = 0b101 then .ok (.bfU a n)
  else if rdOp = 0b110 then .ok (.bfS a n)
  else .error .reservedReaderOp

/-- The operation an inner key selects. -/
def decodeInner : InnerKey → Except Reject Instr
  | .frame opc => .ok (decodeFrame opc)
  | .raw t => .ok (decodeRaw t)
  | .nav g => .ok (decodeNav g)
  | .subframe x => .ok (decodeSubframe x)
  | .reader r off a n => decodeReader r off a n

/-- The operation a key selects, or the name of the reason it selects none (30_encoding.md R122). -/
def decode : Key → Except Reject Instr
  | .byte k => decodeByte k
  | .inner k => decodeInner k

/-- The key of an operation, from the encodings of 30_encoding.md R104, R105, R113 and R120. A reader
operation's unused operand wires are 0 (log 24). -/
def encode : Instr → Key
  | .syncIdleHit => .byte 0x0B5
  | .syncIdleMiss b => .byte (0#2 ++ b)
  | .syncSeen1Hit => .byte 0x162
  | .syncSeen1Miss b => .byte (1#2 ++ b)
  | .syncAccAppend b => .byte (2#2 ++ b)
  | .trkRaw => .inner (.frame 0x030A)
  | .trkNav => .inner (.frame 0x030F)
  | .ignore c i => .inner (.frame (c ++ i))
  | .rawT6 => .inner (.raw 0x06)
  | .rawOther t => .inner (.raw t)
  | .navGps => .inner (.nav 0x00)
  | .navOther g => .inner (.nav g)
  | .sf1 => .inner (.subframe 0b001)
  | .sf23 lo => .inner (.subframe (0b01#2 ++ lo))
  | .sf45 lo => .inner (.subframe (0b10#2 ++ lo))
  | .sfBad x => .inner (.subframe x)
  | .rdU8 off => .inner (.reader 0b000 off 0 0)
  | .rdU16 off => .inner (.reader 0b001 off 0 0)
  | .rdU32 off => .inner (.reader 0b010 off 0 0)
  | .rdI32 off => .inner (.reader 0b011 off 0 0)
  | .rdI64 off => .inner (.reader 0b100 off 0 0)
  | .bfU a n => .inner (.reader 0b101 0 a n)
  | .bfS a n => .inner (.reader 0b110 0 a n)

/-- The six levels of 30_encoding.md R122. -/
inductive Level where
  | byte | frame | raw | nav | subframe | reader
deriving DecidableEq, Repr

/-- A row of spec/opcode_table.json: its level, the width of its level's key, its mask and match, and how
many bits the mask fixes. -/
structure TableRow where
  level : Level
  bits : Nat
  mask : Nat
  pat : Nat
  fixed : Nat
deriving DecidableEq, Repr

/-- spec/opcode_table.json, in its order. -/
def tableRows : List TableRow :=
  [ ⟨.byte, 10, 0x3FF, 0x0B5, 10⟩, ⟨.byte, 10, 0x300, 0x000, 2⟩, ⟨.byte, 10, 0x3FF, 0x162, 10⟩,
    ⟨.byte, 10, 0x300, 0x100, 2⟩, ⟨.byte, 10, 0x300, 0x200, 2⟩ ] ++
  [ ⟨.frame, 16, 0xFFFF, 0x030A, 16⟩, ⟨.frame, 16, 0xFFFF, 0x030F, 16⟩, ⟨.frame, 16, 0x0000, 0x0000, 0⟩ ] ++
  [ ⟨.raw, 8, 0xFF, 0x06, 8⟩, ⟨.raw, 8, 0x00, 0x00, 0⟩ ] ++
  [ ⟨.nav, 8, 0xFF, 0x00, 8⟩, ⟨.nav, 8, 0x00, 0x00, 0⟩ ] ++
  [ ⟨.subframe, 3, 0b111, 0b001, 3⟩, ⟨.subframe, 3, 0b110, 0b010, 2⟩, ⟨.subframe, 3, 0b110, 0b100, 2⟩,
    ⟨.subframe, 3, 0b000, 0b000, 0⟩ ] ++
  [ ⟨.reader, 3, 0b111, 0b000, 3⟩, ⟨.reader, 3, 0b111, 0b001, 3⟩, ⟨.reader, 3, 0b111, 0b010, 3⟩,
    ⟨.reader, 3, 0b111, 0b011, 3⟩, ⟨.reader, 3, 0b111, 0b100, 3⟩, ⟨.reader, 3, 0b111, 0b101, 3⟩,
    ⟨.reader, 3, 0b111, 0b110, 3⟩ ]

/-- Whether a word of `nbits` bits can be this row's: the row's key width is `nbits`, or `nbits` once rounded
up to whole bytes; the word fits the key; and `(key & mask) = match` (30_encoding.md R122). -/
def TableRow.admits (r : TableRow) (nbits w : Nat) : Bool :=
  (r.bits = nbits ∨ (r.bits + 7) / 8 * 8 = nbits) ∧ w < 2 ^ r.bits ∧ w &&& r.mask = r.pat

/-- Which of two rows reads a word that both admit: the one that fixes more bits, then the one with the
narrower key, then the one first in the table (log 2). -/
def TableRow.better (r : TableRow) : Option TableRow → TableRow
  | none => r
  | some old =>
    if old.fixed < r.fixed then r
    else if r.fixed = old.fixed ∧ r.bits < old.bits then r
    else old

/-- The row that reads the word. The levels' keys are different words that share their values, and a bare
word does not name its level: log 2 says how one is picked. -/
def rowOfWord (nbits w : Nat) : Option TableRow :=
  (tableRows.filter (fun r => r.admits nbits w)).foldl (fun best r => some (r.better best)) none

/-- The word as a key of a level. A reader's operand wires have no bits in the table and are 0. -/
def keyOfWord (l : Level) (w : Nat) : Key :=
  match l with
  | .byte => .byte (BitVec.ofNat 10 w)
  | .frame => .inner (.frame (BitVec.ofNat 16 w))
  | .raw => .inner (.raw (BitVec.ofNat 8 w))
  | .nav => .inner (.nav (BitVec.ofNat 8 w))
  | .subframe => .inner (.subframe (BitVec.ofNat 3 w))
  | .reader => .inner (.reader (BitVec.ofNat 3 w) 0 0 0)

/-- The key that a table word stands for, if some row reads it. -/
def tableKey (nbits w : Nat) : Option Key := (rowOfWord nbits w).map (fun r => keyOfWord r.level w)

/-- The operation the decoder reads from a word of the opcode table (log 2). -/
def decodeTableWord (nbits w : Nat) : Option Instr :=
  match tableKey nbits w with
  | none => none
  | some k => (decode k).toOption

end Sys2Proof
end

