-- ==== Sys2Proof/Machine/Real.lean ====
section
/-! DEFINITION. The real numbers of the records and their arithmetic (00_scope.md R15, R16): under `EXACT` a
rational, under `BINARY64` an IEEE 754 binary64 word. Every operation is computed exactly and narrowed once at
the end: under `BINARY64` by round-to-nearest-even, under `EXACT` not at all (log 13). -/

namespace Sys2Proof.Machine

/-- What a real stands for: a number with its sign (so that zero keeps one), an infinity, or no number. -/
inductive Val where
  | nan
  | inf (neg : Bool)
  | fin (neg : Bool) (q : Rat)
deriving DecidableEq, Repr

/-- A real as a record holds it: a rational (`EXACT`), a binary64 word (`BINARY64`, 10_state.md R43), or
IEEE 754's one datum "not a number", which carries no sign and no payload here (log 13). -/
inductive Scalar where
  | exact (q : Rat)
  | bits (w : BitVec 64)
  | nan
deriving DecidableEq, Repr

/-- `2^k`. -/
def pow2 (k : Int) : Rat := if 0 ≤ k then (2 ^ k.toNat : Nat) else mkRat 1 (2 ^ (-k).toNat)

/-- The value of a binary64 word (IEEE 754; 00_scope.md R15). -/
def wordVal (w : BitVec 64) : Val :=
  let neg := w.getLsbD 63
  let e := (w.extractLsb' 52 11).toNat
  let f := (w.extractLsb' 0 52).toNat
  let mag : Rat :=
    if e = 0 then (f : Rat) * pow2 (-1074) else ((2 ^ 52 + f : Nat) : Rat) * pow2 ((e : Int) - 1075)
  if e = 2047 then (if f = 0 then .inf neg else .nan) else .fin neg (if neg then -mag else mag)

/-- What a real stands for. -/
def Scalar.val : Scalar → Val
  | .exact q => .fin (decide (q < 0)) q
  | .bits w => wordVal w
  | .nan => .nan

/-- The exponent of the last place of the binary64 value nearest to the positive `n / d`: that of
`2^e ≤ n / d < 2^(e + 1)`, less 52, and never below that of the subnormals. -/
def ulpExp (n d : Nat) : Int :=
  let k : Int := (n.log2 : Int) - (d.log2 : Int)
  let atLeast : Bool := if 0 ≤ k then d * 2 ^ k.toNat ≤ n else d ≤ n * 2 ^ (-k).toNat
  max ((if atLeast then k else k - 1) - 52) (-1074)

/-- `n / d` rounded to an integer, a tie to the even one. -/
def roundQuotEven (n d : Nat) : Nat :=
  let q := n / d
  let r := n % d
  if d < 2 * r ∨ (2 * r = d ∧ q % 2 = 1) then q + 1 else q

/-- The low 63 bits of the binary64 word nearest to `n / d`, ties to even (00_scope.md R15). The exponent and
fraction fields are laid side by side, so that a carry out of the fraction moves on to the next exponent, and
past the largest finite word to infinity. -/
def magWord (n d : Nat) : Nat :=
  if n = 0 then 0
  else
    let e := ulpExp n d
    let m := if 0 ≤ e then roundQuotEven n (d * 2 ^ e.toNat) else roundQuotEven (n * 2 ^ (-e).toNat) d
    min ((e + 1074).toNat * 2 ^ 52 + m) (2047 * 2 ^ 52)

/-- The binary64 word nearest to `q`, ties to even; `neg` is the sign of a zero. -/
def roundWord (neg : Bool) (q : Rat) : BitVec 64 :=
  BitVec.ofNat 64 ((if neg then 2 ^ 63 else 0) + magWord q.num.natAbs q.den)

/-- An exact result as the parameter `NUMERICS` delivers it (00_scope.md R15). `EXACT` has no infinity. -/
def narrow (m : Numerics) (v : Val) : Scalar :=
  match m, v with
  | _, .nan => .nan
  | .exact, .inf _ => .nan
  | .exact, .fin _ q => .exact q
  | .binary64, .inf neg => .bits (BitVec.ofNat 64 ((if neg then 2 ^ 63 else 0) + 2047 * 2 ^ 52))
  | .binary64, .fin neg q => .bits (roundWord neg q)

/-- A number whose zero is the positive one. -/
def ratVal (q : Rat) : Val := .fin (decide (q < 0)) q

/-- Sum of two values. A zero sum is negative only when both operands are negative (IEEE 754, to nearest). -/
def Val.add : Val → Val → Val
  | .nan, _ => .nan
  | _, .nan => .nan
  | .inf a, .inf b => if a = b then .inf a else .nan
  | .inf a, .fin _ _ => .inf a
  | .fin _ _, .inf b => .inf b
  | .fin a p, .fin b q => if p + q = 0 then .fin (a && b) 0 else ratVal (p + q)

/-- The value with the other sign. -/
def Val.neg : Val → Val
  | .nan => .nan
  | .inf a => .inf (!a)
  | .fin a q => .fin (!a) (-q)

/-- Product of two values; the sign is that of the operands' signs together. -/
def Val.mul : Val → Val → Val
  | .nan, _ => .nan
  | _, .nan => .nan
  | .inf a, .inf b => .inf (a != b)
  | .inf a, .fin b q => if q = 0 then .nan else .inf (a != b)
  | .fin a p, .inf b => if p = 0 then .nan else .inf (a != b)
  | .fin a p, .fin b q => .fin (a != b) (p * q)

/-- Quotient of two values. -/
def Val.div : Val → Val → Val
  | .nan, _ => .nan
  | _, .nan => .nan
  | .inf _, .inf _ => .nan
  | .inf a, .fin b _ => .inf (a != b)
  | .fin a _, .inf b => .fin (a != b) 0
  | .fin a p, .fin b q =>
    if q = 0 then (if p = 0 then .nan else .inf (a != b)) else .fin (a != b) (p / q)

/-- `<` on values, exact (00_scope.md R16). Nothing is below or above "not a number". -/
def Val.lt : Val → Val → Bool
  | .nan, _ => false
  | _, .nan => false
  | .inf a, .inf b => a && !b
  | .inf a, .fin _ _ => a
  | .fin _ _, .inf b => !b
  | .fin _ p, .fin _ q => p < q

/-- A literal, or the conversion of an integer to a real: the nearest value (00_scope.md R15). -/
def Scalar.ofRat (m : Numerics) (q : Rat) : Scalar := narrow m (ratVal q)

/-- The conversion of an integer to a real, one operation (00_scope.md R15). -/
def Scalar.ofInt (m : Numerics) (z : Int) : Scalar := Scalar.ofRat m z

/-- `a + b`, one operation (00_scope.md R15). -/
def Scalar.add (m : Numerics) (a b : Scalar) : Scalar := narrow m (a.val.add b.val)

/-- `a - b`, one operation (00_scope.md R15). -/
def Scalar.sub (m : Numerics) (a b : Scalar) : Scalar := narrow m (a.val.add b.val.neg)

/-- `a × b`, one operation (00_scope.md R15). -/
def Scalar.mul (m : Numerics) (a b : Scalar) : Scalar := narrow m (a.val.mul b.val)

/-- `a / b`, one operation (00_scope.md R15). -/
def Scalar.div (m : Numerics) (a b : Scalar) : Scalar := narrow m (a.val.div b.val)

/-- `-a` (43_raw_measurement.md R260: minus zero under `BINARY64`). -/
def Scalar.neg (m : Numerics) (a : Scalar) : Scalar := narrow m a.val.neg

/-- `a < b`, exact (00_scope.md R16). -/
def Scalar.lt (a b : Scalar) : Bool := a.val.lt b.val

/-- The integer nearest to `q`, ties as `ROUND_MODE` says (00_scope.md R15). -/
def roundRat (mode : RoundMode) (q : Rat) : Int :=
  let f := q.floor
  let r := q - f
  if r < mkRat 1 2 then f
  else if mkRat 1 2 < r then f + 1
  else match mode with
    | .halfEven => if f % 2 = 0 then f else f + 1
    | .halfAway => if 0 ≤ q then f + 1 else f

/-- `round(a)`, an integer converted back to a real (00_scope.md R15, log 14). What is no number rounds to
no number. -/
def Scalar.round (m : Numerics) (mode : RoundMode) (a : Scalar) : Scalar :=
  match a.val with
  | .fin _ q => Scalar.ofInt m (roundRat mode q)
  | .inf _ => .nan
  | .nan => .nan

/-- The larger of two reals (43_raw_measurement.md R245: `max(G)`). -/
def Scalar.maxOf (a b : Scalar) : Scalar := if a.lt b then b else a

end Sys2Proof.Machine
end

