-- ==== Sys2Proof/Machine/Event.lean ====
section
/-! DEFINITION. The output records (10_state.md R41 to R45), the exceptions (60_exceptions.md R351, R352) and
the moves of the environment (70_reset_and_hazards.md R395). A signed field `sN` is held as its N bits, two's
complement (00_scope.md R10). -/

namespace Sys2Proof.Machine

/-- A `FRAME` record (10_state.md R42). -/
structure FrameRec where
  cls : Byte
  id : Byte
  len : BitVec 16
  payload : List Byte
  ckA : Byte
  ckB : Byte
  ckOk : Bool
deriving DecidableEq, Repr

/-- The pseudorange `P` of a record (10_state.md R43, 43_raw_measurement.md R255). -/
inductive Pseudorange where
  /-- A real as the other fields hold one. -/
  | real (x : Scalar)
  /-- `q × C_LIGHT`, `q` not 0: the exact product under `EXACT` where `C_LIGHT` is no rational (log 12). -/
  | timesLight (q : Rat)
deriving DecidableEq, Repr

/-- An `OBS` record (10_state.md R43). `lCp` is `L_cp`, `p` the pseudorange `P`, `d` the Doppler value `D`. -/
structure Obs where
  gnss : Byte
  prn : BitVec 9
  qi : BitVec 3
  rawTime : BitVec 64
  rawAdr : BitVec 64
  rawDop : BitVec 32
  rawSnr : BitVec 16
  half : Bool
  snr : Scalar
  tau : Scalar
  tr : Scalar
  p : Pseudorange
  d : Scalar
  lCp : Scalar
  last : Bool
deriving DecidableEq, Repr

/-- The fields of a subframe 1 (10_state.md R44). `tow` and `toc` are whole seconds (44_nav_subframe.md R308,
R312; log 16). -/
structure NavFields where
  towRaw : BitVec 17
  tow : Nat
  wn : BitVec 10
  codeL2 : BitVec 2
  ura : BitVec 4
  health : BitVec 6
  iodc : BitVec 10
  tgdRaw : BitVec 8
  tgd : Scalar
  tocRaw : BitVec 16
  toc : Nat
  af2Raw : BitVec 8
  af2 : Scalar
  af1Raw : BitVec 16
  af1 : Scalar
  af0Raw : BitVec 22
  af0 : Scalar
deriving DecidableEq, Repr

/-- A `NAV` record (10_state.md R44); the fields are carried only when `has_fields` is 1. -/
structure NavRec where
  sfid : BitVec 3
  hasFields : Bool
  fields : Option NavFields
deriving DecidableEq, Repr

/-- An `ERR` record (10_state.md R45). -/
structure ErrRec where
  code : BitVec 4
  cls : Byte
  id : Byte
  off : BitVec 16
  n : BitVec 8
  sfid : BitVec 3
deriving DecidableEq, Repr

/-- The four event kinds (10_state.md R41). -/
inductive Event where
  | frame (f : FrameRec)
  | obs (o : Obs)
  | nav (n : NavRec)
  | err (e : ErrRec)
deriving DecidableEq, Repr

/-- The exceptions a decoder can raise (60_exceptions.md R351, R352). -/
inductive Exc where
  /-- The payload offset and width of the read that failed. -/
  | shortPayload (off n : Nat)
  /-- The subframe id that is out of range. -/
  | badSubframeId (sfid : BitVec 3)
deriving DecidableEq, Repr

/-- A move of the environment (70_reset_and_hazards.md R395; log 9). -/
inductive Input where
  /-- The transport offers a byte and holds it until it is accepted (10_state.md R40). -/
  | byte (b : Byte)
  /-- The reset input takes a level (R380). -/
  | rst (level : Bool)
  /-- The transport offers a byte, and the reset input rises inside that byte's step, when `k` of the step's
  events have been delivered (R382). -/
  | byteRst (b : Byte) (k : Nat)
deriving DecidableEq, Repr

end Sys2Proof.Machine
end

