-- ==== Sys2Proof/Machine/State.lean ====
section
/-! DEFINITION. The state of the block and of its two neighbours, the reasons a step can stop, and the state
right after reset (10_state.md R34 to R50). -/

namespace Sys2Proof.Machine

/-- The synchronizer state `st`; code 3 is unused and no rule writes it (10_state.md R34, log 21). -/
inductive SyncState where
  | idle
  | seen1
  | acc
deriving DecidableEq, Repr

/-- The accumulation buffer: (address, byte) pairs in the one form that `Memory.wf` describes. An address not
listed has no value: the reset contents of `buf` are unspecified (10_state.md R36, R50; log 4). -/
abbrev Memory := List Host.Cell

/-- The canonical form: addresses strictly rising. No entry can equal what an unlisted address reads as, since
that is no value. -/
abbrev Memory.wf (m : Memory) : Prop := m.Pairwise (fun c d => c.1 < d.1)

/-- The state. -/
structure State where
  /-- The build-time parameters; no step changes them (00_scope.md R7, log 11). -/
  par : Params
  /-- `st` (10_state.md R34). -/
  st : SyncState
  /-- `cnt` (10_state.md R35). -/
  cnt : BitVec 17
  /-- `buf` (10_state.md R36). -/
  buf : Memory
  /-- `busy` (10_state.md R37). -/
  busy : Bool
  /-- The reset input (70_reset_and_hazards.md R380). -/
  rst : Bool
  /-- Class of the message under decode (41_frame_sync.md R187). -/
  cls : Byte
  /-- Id of the message under decode (41_frame_sync.md R187). -/
  id : Byte
  /-- Payload `P` of the message under decode; its length is `L` (20_memory.md R71, 41_frame_sync.md R189). -/
  pay : List Byte
  /-- `frm`; position 0 is the most significant bit (10_state.md R38, 00_scope.md R12). -/
  frm : BitVec 240
  /-- `tr` (10_state.md R38). -/
  tr : Scalar
  /-- `tr_valid` (10_state.md R38). -/
  trValid : Bool
  /-- The observation store, in block order (10_state.md R38). -/
  store : List Obs
  /-- The MODEL's own: the result of the last reader operation issued by itself (log 18). -/
  rd : Int
  /-- Events emitted and not yet delivered; `ev_valid` is 1 when there is one (10_state.md R41). -/
  evq : List Event
  /-- The MODEL's own: the inner operation issued to run next by itself (log 1). -/
  op : Option InnerKey
  /-- What the environment does next, in order (10_state.md R40, 70_reset_and_hazards.md R395). -/
  inq : List Input
  /-- The events delivered to the sink, in order (10_state.md R41, 70_reset_and_hazards.md R385). -/
  out : List Event
deriving DecidableEq, Repr

/-- Why the machine stops. No run from reset stops (60_exceptions.md R358). -/
inductive Fault where
  /-- Raised by a read of a `buf` byte that nothing has written since reset (20_memory.md R73 says no rule does
  one). Safe: it stands in for an unspecified value (log 4). -/
  | unwrittenByte (a : Nat)
  /-- Raised by a write of `buf` at or above `BUF_CAP`, an address that does not exist (20_memory.md R70).
  Safe: the bounds of 10_state.md R49 keep every run from reset away from it (log 4). -/
  | noSuchAddress (a : Nat)
deriving DecidableEq, Repr

/-- Why a step has no meaning. -/
inductive Refusal where
  /-- Raised by an arm of `exec` whose operation has no meaning yet: none is left. Safe. -/
  | notModelled (mnemonic : String)
  /-- Raised by the decoder for `st` code 3, which no value of `State.st` has (10_state.md R34,
  93_implementation_defined.md I2: "refuse"). Safe. -/
  | unusedStateCode
  /-- Raised by the decoder for `rd_op` 111 (40_field_reader.md R158, 93_implementation_defined.md I3:
  "refuse"). Safe. -/
  | reservedReaderOp
deriving DecidableEq, Repr

/-- The state right after reset (10_state.md R50): `rst` released, every parameter at its default, nothing
offered and nothing delivered. `frm`, `tr`, `cls`, `id`, `pay` and `rd` have no reset value in the spec (log 5). -/
def State.reset : State where
  par := defaultParams
  st := .idle
  cnt := 0
  buf := []
  busy := false
  rst := false
  cls := 0
  id := 0
  pay := []
  frm := 0
  tr := .bits 0
  trValid := false
  store := []
  rd := 0
  evq := []
  op := none
  inq := []
  out := []

end Sys2Proof.Machine
end

