-- ==== Sys2Proof/Machine/Ops.lean ====
section
/-! DEFINITION. The operations every meaning shares: the buffer, the interface signals, the events, the
message registers, the reset, and taking an exception. -/

namespace Sys2Proof.Machine

/-- The byte at an address of `buf`, if one was written (20_memory.md R70, log 4). -/
def Memory.read : Memory → Nat → Option Byte
  | [], _ => none
  | (x, v) :: rest, a => if x = a then some v else Memory.read rest a

/-- The buffer with byte `b` at address `a` (20_memory.md R74). -/
def Memory.write : Memory → Nat → Byte → Memory
  | [], a, b => [(a, b)]
  | (x, v) :: rest, a, b =>
    if a < x then (a, b) :: (x, v) :: rest
    else if x = a then (a, b) :: rest
    else (x, v) :: Memory.write rest a b

/-- A read that must find a byte. -/
def Memory.fetch (m : Memory) (a : Nat) : Except Fault Byte :=
  match m.read a with
  | some b => .ok b
  | none => .error (.unwrittenByte a)

/-- The `n` bytes from address `a`, lowest address first (41_frame_sync.md R187: `buf[a .. a + n - 1]`). -/
def Memory.fetchRange (m : Memory) (a : Nat) : Nat → Except Fault (List Byte)
  | 0 => .ok []
  | n + 1 =>
    match m.fetch a with
    | .error f => .error f
    | .ok b =>
      match Memory.fetchRange m (a + 1) n with
      | .error f => .error f
      | .ok bs => .ok (b :: bs)

/-- `MemWrite(a, 1, b)`: an address at or above `BUF_CAP` does not exist (00_scope.md R14, 20_memory.md R70). -/
def State.memWrite (s : State) (a : Nat) (b : Byte) : Except Fault State :=
  if a < s.par.bufCap then .ok { s with buf := s.buf.write a b } else .error (.noSuchAddress a)

/-- The code of a synchronizer state (10_state.md R34). -/
def SyncState.code : SyncState → BitVec 2
  | .idle => 0
  | .seen1 => 1
  | .acc => 2

/-- The synchronizer state of a code; code 3 has none (10_state.md R34). -/
def SyncState.ofCode (c : BitVec 2) : Option SyncState :=
  if c = 0 then some .idle else if c = 1 then some .seen1 else if c = 2 then some .acc else none

/-- `K = (st << 8) | b` (30_encoding.md R122). -/
def byteKey (st : SyncState) (b : Byte) : BitVec 10 := st.code ++ b

/-- `OPC = (class << 8) | id` (30_encoding.md R103). -/
def opcodeOf (cls id : Byte) : BitVec 16 := cls ++ id

/-- `in_ready` (10_state.md R37, R40). -/
def State.inReady (s : State) : Bool := !s.busy && !s.rst

/-- `ev_valid`: an event is pending (10_state.md R41). -/
def State.evValid (s : State) : Bool := !s.evq.isEmpty

/-- `st <- v; cnt <- c` (00_scope.md R14). -/
def State.setSync (s : State) (v : SyncState) (c : BitVec 17) : State := { s with st := v, cnt := c }

/-- `emit(ev)` for each event of a list (00_scope.md R14). -/
def State.emit (s : State) (evs : List Event) : State := { s with evq := s.evq ++ evs }

/-- Every pending event goes to the sink, in order (10_state.md R41, 20_memory.md R86). -/
def State.deliver (s : State) : State := { s with evq := [], out := s.out ++ s.evq }

/-- A message is handed to the dispatcher: `busy` rises, its class, id and payload are latched, and the working
state of the message before it is cleared (10_state.md R37, R38; 41_frame_sync.md R187). -/
def State.beginMessage (s : State) (cls id : Byte) (pay : List Byte) : State :=
  { s with busy := true, cls := cls, id := id, pay := pay, trValid := false, store := [] }

/-- The message is done: `busy` falls (10_state.md R37). -/
def State.endMessage (s : State) : State := { s with busy := false }

/-- `frm <- v` (44_nav_subframe.md R303). -/
def State.setFrm (s : State) (v : BitVec 240) : State := { s with frm := v }

/-- `tr <- v; tr_valid <- 1` (43_raw_measurement.md R245). -/
def State.setTr (s : State) (v : Scalar) : State := { s with tr := v, trValid := true }

/-- The records go into the observation store (43_raw_measurement.md R261). -/
def State.setStore (s : State) (os : List Obs) : State := { s with store := os }

/-- The reader's result output takes a value (log 18). -/
def State.setRd (s : State) (v : Int) : State := { s with rd := v }

/-- The message's working state is dropped (42_dispatch.md R224, 60_exceptions.md R356). -/
def State.dropWork (s : State) : State := { s with trValid := false, store := [] }

/-- `ERR.off` of a failing offset: the offset where a u16 holds it (10_state.md R45), else a free value (log 8). -/
def errOff (payload : List Byte) (off : Nat) : BitVec 16 :=
  if off < 65536 then BitVec.ofNat 16 off else Config.errOffBeyond payload off

/-- The `ERR` record of an exception; fields that do not apply are 0 (10_state.md R45, 42_dispatch.md R220). -/
def errRec (cls id : Byte) (payload : List Byte) : Exc → ErrRec
  | .shortPayload off n =>
    { code := 1, cls := cls, id := id, off := errOff payload off, n := BitVec.ofNat 8 n, sfid := 0 }
  | .badSubframeId sfid => { code := 2, cls := cls, id := id, off := 0, n := 0, sfid := sfid }

/-- TAKING AN EXCEPTION (60_exceptions.md R356, 42_dispatch.md R220, R224): no control is transferred and no
state is saved; the message's working state is dropped and exactly one `ERR` is emitted. There is nothing to
return from (R357): `State.endMessage` ends the message as for any other, and the next byte is accepted. -/
def State.raise (s : State) (e : Exc) : State := s.dropWork.emit [.err (errRec s.cls s.id s.pay e)]

/-- The reset transition with the reset input at a level: every register takes its reset value, whatever it
held; the build's parameters, what the environment will still do and what was delivered are not the block's to
change (70_reset_and_hazards.md R380). A pending event is lost (10_state.md R50). -/
def State.afterReset (s : State) (level : Bool) : State :=
  { State.reset with par := s.par, rst := level, inq := s.inq, out := s.out }

/-- `onNext f o`: `f` on the next state of an outcome; a stop stays as it is. -/
def onNext (f : State → State) (o : Host.Outcome State Fault Refusal) : Host.Outcome State Fault Refusal :=
  match o with
  | .next t => .next (f t)
  | .fault r => .fault r
  | .refused r => .refused r

/-- The decoder's reasons as the machine's (30_encoding.md R122). -/
def rejected : Reject → Refusal
  | .unusedStateCode => .unusedStateCode
  | .reservedReaderOp => .reservedReaderOp

end Sys2Proof.Machine
end

