-- ==== Sys2Proof/Machine/Operands.lean ====
section
/-! DEFINITION. Every operand form: the bounds-checked little-endian reads of a payload, the bit fields of the
navigation string, the fields of a measurement block, the transport words. -/

namespace Sys2Proof.Machine

/-- The little-endian value of bytes: byte `k` carries bits `8k+7 : 8k` (20_memory.md R75). -/
def leNat : List Byte → Nat
  | [] => 0
  | b :: bs => b.toNat + 256 * leNat bs

/-- `MemRead(off, n)` (00_scope.md R14, 20_memory.md R72): checked against the payload's length, with exact
offset arithmetic (40_field_reader.md R160). -/
def memRead (P : List Byte) (off n : Nat) : Except Exc Nat :=
  if P.length < off + n then .error (.shortPayload off n) else .ok (leNat ((P.drop off).take n))

/-- `sext_N(v)` (00_scope.md R13). -/
def sext (N v : Nat) : Int :=
  let u := v % 2 ^ N
  if 2 ^ (N - 1) ≤ u then (u : Int) - 2 ^ N else u

/-- `RD.U8` (40_field_reader.md R151). -/
def rdU8 (P : List Byte) (off : Nat) : Except Exc Nat := memRead P off 1

/-- `RD.U16` (40_field_reader.md R152). -/
def rdU16 (P : List Byte) (off : Nat) : Except Exc Nat := memRead P off 2

/-- `RD.U32` (40_field_reader.md R153). -/
def rdU32 (P : List Byte) (off : Nat) : Except Exc Nat := memRead P off 4

/-- `RD.I32` (40_field_reader.md R154). -/
def rdI32 (P : List Byte) (off : Nat) : Except Exc Int :=
  match memRead P off 4 with
  | .error e => .error e
  | .ok v => .ok (sext 32 v)

/-- `RD.I64` (40_field_reader.md R155). -/
def rdI64 (P : List Byte) (off : Nat) : Except Exc Int :=
  match memRead P off 8 with
  | .error e => .error e
  | .ok v => .ok (sext 64 v)

/-- `frm⟨a, n⟩` for `a + n ≤ 240` (00_scope.md R12). -/
def bitField (frm : BitVec 240) (a n : Nat) : Nat := frm.toNat / 2 ^ (240 - (a + n)) % 2 ^ n

/-- Whether `a`, `n` are operands a bit-field operation has a result for (40_field_reader.md R156). -/
def bfInRange (a n : Nat) : Bool := 1 ≤ n ∧ n ≤ 24 ∧ a + n ≤ 240

/-- `BF.U a, n` (40_field_reader.md R156); outside the operands' range a free value (log 7). -/
def bfU (frm : BitVec 240) (a n : Nat) : Int :=
  if bfInRange a n then (bitField frm a n : Int) else Config.bfOutside false frm a n

/-- `BF.S a, n` (40_field_reader.md R157); outside the operands' range a free value (log 7). -/
def bfS (frm : BitVec 240) (a n : Nat) : Int :=
  if bfInRange a n then sext n (bitField frm a n) else Config.bfOutside true frm a n

/-- The low bits of a read value, `v & (2^n - 1)`. -/
def lowBits (n : Nat) (r : Except Exc Nat) : Except Exc Nat :=
  match r with
  | .error e => .error e
  | .ok v => .ok (v % 2 ^ n)

/-- `qi(o)`: bits [2:0] of the quality byte (43_raw_measurement.md R244, 30_encoding.md R117). -/
def blkQi (par : Params) (P : List Byte) (o : Nat) : Except Exc Nat := lowBits 3 (rdU8 P (o + par.blk.qi))

/-- `gnss(o)` (43_raw_measurement.md R244). -/
def blkGnss (par : Params) (P : List Byte) (o : Nat) : Except Exc Nat := rdU8 P (o + par.blk.gnss)

/-- `sv(o)` (43_raw_measurement.md R244). -/
def blkSv (par : Params) (P : List Byte) (o : Nat) : Except Exc Nat := rdU8 P (o + par.blk.sv)

/-- `raw_time(o)` (43_raw_measurement.md R244). -/
def blkRawTime (par : Params) (P : List Byte) (o : Nat) : Except Exc Int := rdI64 P (o + par.blk.rawTime)

/-- `flagb(o)` (43_raw_measurement.md R244). -/
def blkFlag (par : Params) (P : List Byte) (o : Nat) : Except Exc Nat := rdU8 P (o + par.blk.flag)

/-- `raw_adr(o)` (43_raw_measurement.md R244). -/
def blkRawAdr (par : Params) (P : List Byte) (o : Nat) : Except Exc Int := rdI64 P (o + par.blk.rawAdr)

/-- `raw_dop(o)` (43_raw_measurement.md R244). -/
def blkRawDop (par : Params) (P : List Byte) (o : Nat) : Except Exc Int := rdI32 P (o + par.blk.rawDop)

/-- `raw_snr(o)` (43_raw_measurement.md R244). -/
def blkRawSnr (par : Params) (P : List Byte) (o : Nat) : Except Exc Nat := rdU16 P (o + par.blk.rawSnr)

/-- `prn`: the satellite number, plus 192 for QZSS (30_encoding.md R119). -/
def prnOf (t : Tag) (sv : Nat) : BitVec 9 := BitVec.ofNat 9 (if t = .qzss then sv + qzssPrnOffset else sv)

/-- What a per-item decoder gives for the items of a list, in order, leaving out the items it gives nothing
for; the first exception ends it (60_exceptions.md R354). -/
def collect {α : Type} (f : Nat → Except Exc (Option α)) : List Nat → Except Exc (List α)
  | [] => .ok []
  | o :: os =>
    match f o with
    | .error e => .error e
    | .ok none => collect f os
    | .ok (some x) =>
      match collect f os with
      | .error e => .error e
      | .ok xs => .ok (x :: xs)

/-- The payload offset of transport word `i` (44_nav_subframe.md R302). -/
def wordOff (i : Nat) : Nat := navWordOff + 4 * i

/-- The ten transport words, read in ascending order (44_nav_subframe.md R302). -/
def readWords (P : List Byte) : Except Exc (List Nat) :=
  collect (fun i =>
    match rdU32 P (wordOff i) with
    | .error e => .error e
    | .ok w => .ok (some w)) (List.range navWords)

/-- `d = (w >> 6) & 0xFFFFFF` (44_nav_subframe.md R303, 30_encoding.md R109). -/
def wordData (w : Nat) : Nat := w / 2 ^ parityBits % 2 ^ dataWidth

/-- The 240-bit string of ten data words, the first leftmost (44_nav_subframe.md R303, 30_encoding.md R110). -/
def frmOf (ds : List Nat) : BitVec 240 :=
  BitVec.ofNat 240 (ds.foldl (fun acc d => acc * 2 ^ dataWidth + d) 0)

end Sys2Proof.Machine
end

