-- ==== Sys2Proof/Machine/Flags.lean ====
section
/-! DEFINITION. Every flag the block computes (10_state.md R47): `ck_ok` of a `FRAME`, `half` and `last` of an
`OBS`, `has_fields` of a `NAV`. None persists between steps. -/

namespace Sys2Proof.Machine

/-- The loop of the checksum from a running pair (41_frame_sync.md R193). -/
def fletcherFrom (ca cb : Byte) : List Byte → Byte × Byte
  | [] => (ca, cb)
  | x :: xs => fletcherFrom (ca + x) (cb + (ca + x)) xs

/-- `fletcher(bytes)`, sums modulo 256 (41_frame_sync.md R193). -/
def fletcher (bytes : List Byte) : Byte × Byte := fletcherFrom 0 0 bytes

/-- `ck_ok`: the trailer equals the checksum of the bytes before it (41_frame_sync.md R193). -/
def ckOkFlag (body : List Byte) (ka kb : Byte) : Bool := (ka, kb) = fletcher body

/-- `half`: bit 0 of the flag byte (30_encoding.md R118, 43_raw_measurement.md R257). -/
def halfFlag (flagb : Nat) : Bool := flagb % 2 = 1

/-- `last` is 1 on the final record of a message and 0 on the others (43_raw_measurement.md R262). -/
def markLast : List Obs → List Obs
  | [] => []
  | [o] => [{ o with last := true }]
  | o :: o' :: os => { o with last := false } :: markLast (o' :: os)

/-- `has_fields` is 1 only when the subframe id is 1 (10_state.md R44). -/
def hasFieldsFlag (sfid : BitVec 3) : Bool := sfid = 1

end Sys2Proof.Machine
end

