-- ==== Sys2Proof/Machine/FieldReader.lean ====
section
/-! DEFINITION. The reader operations (40_field_reader.md R150 to R160), each issued by itself on the payload
and the bit string of the message under decode. A read changes nothing but the reader's result output (R159,
log 18); a read outside the payload takes the `ShortPayload` exception (R150). -/

namespace Sys2Proof.Machine

/-- The effect of a reader operation's result: the value goes to the result output, or the exception is taken. -/
def readerResult (s : State) (r : Except Exc Int) : State :=
  match r with
  | .ok v => s.setRd v
  | .error e => s.raise e

/-- An unsigned result as an integer (30_encoding.md R114: zero-extension). -/
def zextResult (r : Except Exc Nat) : Except Exc Int :=
  match r with
  | .ok v => .ok (v : Int)
  | .error e => .error e

/-- `RD.U8 off` (40_field_reader.md R151). -/
def execRdU8 (off : BitVec 16) (s : State) : Host.Outcome State Fault Refusal :=
  .next (readerResult s (zextResult (rdU8 s.pay off.toNat)))

/-- `RD.U16 off` (40_field_reader.md R152). -/
def execRdU16 (off : BitVec 16) (s : State) : Host.Outcome State Fault Refusal :=
  .next (readerResult s (zextResult (rdU16 s.pay off.toNat)))

/-- `RD.U32 off` (40_field_reader.md R153). -/
def execRdU32 (off : BitVec 16) (s : State) : Host.Outcome State Fault Refusal :=
  .next (readerResult s (zextResult (rdU32 s.pay off.toNat)))

/-- `RD.I32 off` (40_field_reader.md R154). -/
def execRdI32 (off : BitVec 16) (s : State) : Host.Outcome State Fault Refusal :=
  .next (readerResult s (rdI32 s.pay off.toNat))

/-- `RD.I64 off` (40_field_reader.md R155). -/
def execRdI64 (off : BitVec 16) (s : State) : Host.Outcome State Fault Refusal :=
  .next (readerResult s (rdI64 s.pay off.toNat))

/-- `BF.U a, n` (40_field_reader.md R156). -/
def execBfU (a : BitVec 8) (n : BitVec 6) (s : State) : Host.Outcome State Fault Refusal :=
  .next (s.setRd (bfU s.frm a.toNat n.toNat))

/-- `BF.S a, n` (40_field_reader.md R157). -/
def execBfS (a : BitVec 8) (n : BitVec 6) (s : State) : Host.Outcome State Fault Refusal :=
  .next (s.setRd (bfS s.frm a.toNat n.toNat))

end Sys2Proof.Machine
end

