-- ==== Sys2Proof/Machine/NavSubframe.lean ====
section
/-! DEFINITION. The navigation subframe decoder (44_nav_subframe.md): reassembly of the 240-bit string, the
subframe id, the clock and health fields of subframe 1. -/

namespace Sys2Proof.Machine

/-- A raw field times a power of two (30_encoding.md R116, 44_nav_subframe.md R311, R313). -/
def scaled (m : Numerics) (raw : Int) (k : Int) : Scalar := Scalar.mul m (Scalar.ofInt m raw) (Scalar.ofRat m (pow2 k))

/-- The fields of subframe 1, read in the source's order (44_nav_subframe.md R307 to R313). -/
def navFields (par : Params) (frm : BitVec 240) : NavFields :=
  let m := par.numerics
  let lay := par.sf
  let towRaw := BitVec.ofInt 17 (bfU frm lay.towRaw 17)
  let wn := BitVec.ofInt 10 (bfU frm lay.wn 10)
  let codeL2 := BitVec.ofInt 2 (bfU frm lay.codeL2 2)
  let ura := BitVec.ofInt 4 (bfU frm lay.ura 4)
  let health := BitVec.ofInt 6 (bfU frm lay.health 6)
  let iodcHi := BitVec.ofInt 2 (bfU frm lay.iodcHi 2)
  let tgdRaw := BitVec.ofInt 8 (bfS frm lay.tgdRaw 8)
  let iodcLo := BitVec.ofInt 8 (bfU frm lay.iodcLo 8)
  let tocRaw := BitVec.ofInt 16 (bfU frm lay.tocRaw 16)
  let af2Raw := BitVec.ofInt 8 (bfS frm lay.af2Raw 8)
  let af1Raw := BitVec.ofInt 16 (bfS frm lay.af1Raw 16)
  let af0Raw := BitVec.ofInt 22 (bfS frm lay.af0Raw 22)
  { towRaw := towRaw, tow := towRaw.toNat * 6, wn := wn, codeL2 := codeL2, ura := ura, health := health,
    iodc := iodcHi ++ iodcLo,
    tgdRaw := tgdRaw, tgd := scaled m tgdRaw.toInt (-31),
    tocRaw := tocRaw, toc := tocRaw.toNat * 16,
    af2Raw := af2Raw, af2 := scaled m af2Raw.toInt (-55),
    af1Raw := af1Raw, af1 := scaled m af1Raw.toInt (-43),
    af0Raw := af0Raw, af0 := scaled m af0Raw.toInt (-31) }

/-- The `NAV` record of a subframe: fields only where `has_fields` is 1 (10_state.md R44, 44_nav_subframe.md
R306, R314). -/
def navRec (par : Params) (frm : BitVec 240) (sfid : BitVec 3) : NavRec :=
  { sfid := sfid, hasFields := hasFieldsFlag sfid,
    fields := if hasFieldsFlag sfid then some (navFields par frm) else none }

/-- `SF.1` (44_nav_subframe.md R307, R314). -/
def execSf1 (s : State) : Host.Outcome State Fault Refusal :=
  .next (s.emit [.nav (navRec s.par s.frm 1)])

/-- `SF.2_3`: recognized, not decoded (44_nav_subframe.md R306). -/
def execSf23 (lo : BitVec 1) (s : State) : Host.Outcome State Fault Refusal :=
  .next (s.emit [.nav (navRec s.par s.frm (0b01#2 ++ lo))])

/-- `SF.4_5`: recognized, not decoded (44_nav_subframe.md R306). -/
def execSf45 (lo : BitVec 1) (s : State) : Host.Outcome State Fault Refusal :=
  .next (s.emit [.nav (navRec s.par s.frm (0b10#2 ++ lo))])

/-- `SF.BAD`: the exception `BadSubframeId` (44_nav_subframe.md R305). -/
def execSfBad (sfid : BitVec 3) (s : State) : Host.Outcome State Fault Refusal :=
  .next (s.raise (.badSubframeId sfid))

/-- `sfid` of a bit string (44_nav_subframe.md R304). -/
def sfidOf (par : Params) (frm : BitVec 240) : BitVec 3 := BitVec.ofInt 3 (bfU frm par.sf.sfid 3)

/-- The subframe-id check and what follows it, in the written order (44_nav_subframe.md R300, R305, R306). -/
def selectSubframe (s : State) : Host.Outcome State Fault Refusal :=
  let sfid := sfidOf s.par s.frm
  if sfid.toNat < 1 ∨ 5 < sfid.toNat then execSfBad sfid s
  else if sfid.toNat = 1 then execSf1 s
  else if sfid.toNat ≤ 3 then execSf23 (sfid.setWidth 1) s
  else execSf45 (sfid.setWidth 1) s

/-- `NAV.GPS`: ten words, the bit string in full, then the subframe (44_nav_subframe.md R300 to R304). -/
def execNavGps (s : State) : Host.Outcome State Fault Refusal :=
  match readWords s.pay with
  | .error e => .next (s.raise e)
  | .ok ws => selectSubframe (s.setFrm (frmOf (ws.map wordData)))

/-- `NAV.OTHER`: returns, emitting nothing and reading no word (44_nav_subframe.md R301). -/
def execNavOther (_gnss : Byte) (s : State) : Host.Outcome State Fault Refusal := .next s

end Sys2Proof.Machine
end

