-- ==== Sys2Proof/Machine/RawMeasurement.lean ====
section
/-! DEFINITION. The raw measurement decoder (43_raw_measurement.md): block geometry, the two passes, the
reference receive time, the derived observables, the output order. -/

namespace Sys2Proof.Machine

/-- The number of blocks of a payload of length `L`, `ceil((L - 80) / 64)` (43_raw_measurement.md R243). -/
def numBlocks (L : Nat) : Nat := (L - rawHdr + (rawBlk - 1)) / rawBlk

/-- The block starts `80 + 64k < L`, ascending (43_raw_measurement.md R243). -/
def blockStarts (L : Nat) : List Nat := (List.range (numBlocks L)).map (fun k => rawHdr + rawBlk * k)

/-- `raw_time × 2^-32 / 1000`, in the written order (43_raw_measurement.md R246). -/
def blockTime (m : Numerics) (r : Int) : Scalar :=
  Scalar.div m (Scalar.mul m (Scalar.ofInt m r) (Scalar.ofRat m (pow2 (-32)))) (Scalar.ofInt m 1000)

/-- A block's part in pass 1: its time, if it is a GPS candidate (43_raw_measurement.md R245, R247). The
GLONASS offset is computed and, the block not being GPS, dropped. -/
def pass1Block (par : Params) (P : List Byte) (o : Nat) : Except Exc (Option Scalar) :=
  match blkQi par P o with
  | .error e => .error e
  | .ok q =>
    if q < qiMin then .ok none
    else
      match blkGnss par P o with
      | .error e => .error e
      | .ok g =>
        match blkRawTime par P o with
        | .error e => .error e
        | .ok r =>
          let tag := tagOf par (BitVec.ofNat 8 g)
          let t := blockTime par.numerics r
          let t := if tag = some .glonass then Scalar.sub par.numerics t (Scalar.ofInt par.numerics gloOffset) else t
          if tag = some .gps then .ok (some t) else .ok none

/-- Pass 1: the GPS candidates `G`, in block order (43_raw_measurement.md R245). -/
def pass1 (par : Params) (P : List Byte) (B : List Nat) : Except Exc (List Scalar) := collect (pass1Block par P) B

/-- `tr <- TICK × round((tr + TICK_BIAS) / TICK)` (43_raw_measurement.md R249). -/
def snap (par : Params) (t : Scalar) : Scalar :=
  let m := par.numerics
  let quotient := Scalar.div m (Scalar.add m t (Scalar.ofRat m tickBias)) (Scalar.ofRat m tick)
  Scalar.mul m (Scalar.ofRat m tick) (Scalar.round m par.roundMode quotient)

/-- `week_wrap(x)`: one adjustment at most, the bounds themselves are not adjusted (43_raw_measurement.md R253). -/
def weekWrap (m : Numerics) (x : Scalar) : Scalar :=
  if x.lt (Scalar.ofInt m (-halfWeek)) then Scalar.add m x (Scalar.ofInt m week)
  else if (Scalar.ofInt m halfWeek).lt x then Scalar.sub m x (Scalar.ofInt m week)
  else x

/-- `tau`: receive time less transmit time, wrapped; 0 below `QI_MIN`, which the filter before it excludes
(43_raw_measurement.md R253, R254). -/
def blockTau (m : Numerics) (tr ts : Scalar) (q : Nat) : Scalar :=
  let tau := weekWrap m (Scalar.sub m tr ts)
  if q < qiMin then Scalar.ofInt m 0 else tau

/-- `adr = raw_adr × 2^-32 + (0.5 if half else 0)` (43_raw_measurement.md R256). -/
def adrOf (m : Numerics) (ra : Int) (h : Bool) : Scalar :=
  Scalar.add m (Scalar.mul m (Scalar.ofInt m ra) (Scalar.ofRat m (pow2 (-32))))
    (if h then Scalar.ofRat m (mkRat 1 2) else Scalar.ofInt m 0)

/-- `raw_dop × 2^-10 / 4` (43_raw_measurement.md R258). -/
def dopplerOf (m : Numerics) (rd : Int) : Scalar :=
  Scalar.div m (Scalar.mul m (Scalar.ofInt m rd) (Scalar.ofRat m (pow2 (-10)))) (Scalar.ofInt m 4)

/-- `raw_snr / 256` (43_raw_measurement.md R259). -/
def snrOf (m : Numerics) (rs : Nat) : Scalar := Scalar.div m (Scalar.ofInt m rs) (Scalar.ofInt m 256)

/-- `C_LIGHT` as an operand of the arithmetic: its nearest value (00_scope.md R15); under `EXACT` an irrational
`C_LIGHT` is none (log 12). -/
def lightOperand (par : Params) : Option Scalar :=
  match par.cLight, par.numerics with
  | .rational q, m => some (Scalar.ofRat m q)
  | .irrational w, .binary64 => some (.bits w)
  | .irrational _, .exact => none

/-- A rational times an irrational `C_LIGHT`, exactly. What is no number stays none. -/
def exactRange (tau : Val) : Pseudorange :=
  match tau with
  | .fin _ q => if q = 0 then .real (.exact 0) else .timesLight q
  | .inf _ => .real .nan
  | .nan => .real .nan

/-- `P = tau × C_LIGHT` (43_raw_measurement.md R255). -/
def rangeOf (par : Params) (tau : Scalar) : Pseudorange :=
  match lightOperand par with
  | some c => .real (Scalar.mul par.numerics tau c)
  | none => exactRange tau.val

/-- The carrier-phase fields of a block: `raw_adr`, `half`, `adr`. Below `QI_ADR` neither field is read and all
three are 0 (43_raw_measurement.md R256). -/
def blockPhase (par : Params) (P : List Byte) (o q : Nat) : Except Exc (Int × Bool × Scalar) :=
  if q < qiAdr then .ok (0, false, Scalar.ofInt par.numerics 0)
  else
    match blkFlag par P o with
    | .error e => .error e
    | .ok fb =>
      match blkRawAdr par P o with
      | .error e => .error e
      | .ok ra => .ok (ra, halfFlag fb, adrOf par.numerics ra (halfFlag fb))

/-- The record of a block that passed the filters, its remaining fields read in the written order
(43_raw_measurement.md R250, R261). -/
def blockRecord (par : Params) (P : List Byte) (tr : Scalar) (o q g s : Nat) (t : Tag) : Except Exc Obs :=
  let m := par.numerics
  match blkRawTime par P o with
  | .error e => .error e
  | .ok r =>
    let tau := blockTau m tr (blockTime m r) q
    match blockPhase par P o q with
    | .error e => .error e
    | .ok (ra, h, adr) =>
      match blkRawDop par P o with
      | .error e => .error e
      | .ok rd =>
        match blkRawSnr par P o with
        | .error e => .error e
        | .ok rs =>
          .ok { gnss := BitVec.ofNat 8 g, prn := prnOf t s, qi := BitVec.ofNat 3 q,
                rawTime := BitVec.ofInt 64 r, rawAdr := BitVec.ofInt 64 ra,
                rawDop := BitVec.ofInt 32 rd, rawSnr := BitVec.ofNat 16 rs, half := h,
                snr := snrOf m rs, tau := tau, tr := tr,
                p := rangeOf par tau,
                d := dopplerOf m rd, lCp := Scalar.neg m adr, last := false }

/-- A block's part in pass 2: its record, if its quality is in [4, 7] and its code names a constellation
(43_raw_measurement.md R250, R251). -/
def pass2Block (par : Params) (P : List Byte) (tr : Scalar) (o : Nat) : Except Exc (Option Obs) :=
  match blkQi par P o with
  | .error e => .error e
  | .ok q =>
    if q < qiMin ∨ qiMax < q then .ok none
    else
      match blkGnss par P o with
      | .error e => .error e
      | .ok g =>
        match blkSv par P o with
        | .error e => .error e
        | .ok s =>
          match tagOf par (BitVec.ofNat 8 g) with
          | none => .ok none
          | some t =>
            match blockRecord par P tr o q g s t with
            | .error e => .error e
            | .ok r => .ok (some r)

/-- Pass 2: the records in block order (43_raw_measurement.md R250). -/
def pass2 (par : Params) (P : List Byte) (tr : Scalar) (B : List Nat) : Except Exc (List Obs) :=
  collect (pass2Block par P tr) B

/-- The rank of a record's constellation; a record has one (43_raw_measurement.md R251, R262). -/
def obsRank (par : Params) (o : Obs) : Nat :=
  match tagOf par o.gnss with
  | some t => rankOf par t
  | none => par.constRank.length

/-- `(CONST_RANK(tag), prn)` of the first is at most that of the second (43_raw_measurement.md R262). -/
def obsLe (par : Params) (a b : Obs) : Bool :=
  obsRank par a < obsRank par b ∨ (obsRank par a = obsRank par b ∧ a.prn.toNat ≤ b.prn.toNat)

/-- The records ascending by key, equal keys in block order (43_raw_measurement.md R262). -/
def sortObs (par : Params) (os : List Obs) : List Obs := os.insertionSort (fun a b => obsLe par a b = true)

/-- `RAW.T6` after the discriminator is read (43_raw_measurement.md R240): header check, pass 1, snap, pass 2,
emission in order. -/
def rawDecode (s : State) : State :=
  if s.pay.length < rawHdr then s.raise (.shortPayload 0 rawHdr)
  else
    match pass1 s.par s.pay (blockStarts s.pay.length) with
    | .error e => s.raise e
    | .ok [] => s
    | .ok (g :: G) =>
      let t := s.setTr (snap s.par (G.foldl Scalar.maxOf g))
      match pass2 s.par s.pay t.tr (blockStarts s.pay.length) with
      | .error e => t.raise e
      | .ok S => (t.setStore S).emit ((markLast (sortObs s.par S)).map Event.obs)

/-- `RAW.T6` (43_raw_measurement.md R240). -/
def execRawT6 (s : State) : Host.Outcome State Fault Refusal := .next (rawDecode s)

/-- `RAW.OTHER`: returns, emitting nothing (43_raw_measurement.md R241). -/
def execRawOther (_type : Byte) (s : State) : Host.Outcome State Fault Refusal := .next s

end Sys2Proof.Machine
end

