-- ==== Sys2Proof/Machine/Dispatcher.lean ====
section
/-! DEFINITION. The message dispatcher (42_dispatch.md): it selects a decoder by an exact match on the pair
(class, id). -/

namespace Sys2Proof.Machine

/-- `TRK.RAW`: the discriminator is read, then `RAW.T6` or `RAW.OTHER` (42_dispatch.md R221,
43_raw_measurement.md R240, R241). -/
def execTrkRaw (s : State) : Host.Outcome State Fault Refusal :=
  match rdU8 s.pay 0 with
  | .error e => .next (s.raise e)
  | .ok t => if t = rawType then execRawT6 s else execRawOther (BitVec.ofNat 8 t) s

/-- `TRK.NAV`: the constellation is read, then `NAV.GPS` or `NAV.OTHER` (42_dispatch.md R222,
44_nav_subframe.md R300, R301). -/
def execTrkNav (s : State) : Host.Outcome State Fault Refusal :=
  match rdU8 s.pay s.par.navGnssOff with
  | .error e => .next (s.raise e)
  | .ok g =>
    if tagOf s.par (BitVec.ofNat 8 g) = some .gps then execNavGps s else execNavOther (BitVec.ofNat 8 g) s

/-- `IGNORE`: no decoder runs and no event follows (42_dispatch.md R223). -/
def execIgnore (_cls _id : Byte) (s : State) : Host.Outcome State Fault Refusal := .next s

/-- `dispatch(cls, id, P, L)` on the latched message (42_dispatch.md R220). -/
def dispatchMessage (s : State) : Host.Outcome State Fault Refusal :=
  if opcodeOf s.cls s.id = opcodeOf clsTrk idRaw then execTrkRaw s
  else if opcodeOf s.cls s.id = opcodeOf clsTrk idNav then execTrkNav s
  else execIgnore s.cls s.id s

end Sys2Proof.Machine
end

