-- ==== Sys2Proof/Machine/FrameSync.lean ====
section
/-! DEFINITION. The frame synchronizer (41_frame_sync.md): one operation for each accepted byte. -/

namespace Sys2Proof.Machine

/-- `SYNC.IDLE.HIT`: `st <- SEEN1` (41_frame_sync.md R181). -/
def execSyncIdleHit (s : State) : Host.Outcome State Fault Refusal := .next (s.setSync .seen1 s.cnt)

/-- `SYNC.IDLE.MISS`: the byte is discarded (41_frame_sync.md R182). -/
def execSyncIdleMiss (_b : Byte) (s : State) : Host.Outcome State Fault Refusal := .next s

/-- `SYNC.SEEN1.HIT`: `st <- ACC; cnt <- 0` (41_frame_sync.md R183). -/
def execSyncSeen1Hit (s : State) : Host.Outcome State Fault Refusal := .next (s.setSync .acc 0)

/-- `SYNC.SEEN1.MISS`: `st <- IDLE`; the byte is discarded, not reconsidered (41_frame_sync.md R184). -/
def execSyncSeen1Miss (_b : Byte) (s : State) : Host.Outcome State Fault Refusal := .next (s.setSync .idle s.cnt)

/-- `L`, the u16 at buffer addresses 2 and 3, low byte first (10_state.md R36, 30_encoding.md R101). -/
def declaredLength (m : Memory) : Except Fault Nat :=
  match m.fetchRange 2 2 with
  | .error f => .error f
  | .ok bs => .ok (leNat bs)

/-- The `FRAME` record of the `L + 6` accumulated bytes (41_frame_sync.md R187, R189, 10_state.md R42). -/
def frameOf (bs : List Byte) (L : Nat) : FrameRec :=
  { cls := bs.getD 0 0, id := bs.getD 1 0, len := BitVec.ofNat 16 L,
    payload := (bs.drop hdrLen).take L,
    ckA := bs.getD (L + hdrLen) 0, ckB := bs.getD (L + hdrLen + 1) 0,
    ckOk := ckOkFlag (bs.take (L + hdrLen)) (bs.getD (L + hdrLen) 0) (bs.getD (L + hdrLen + 1) 0) }

/-- What follows a completed frame: nothing when `CHECK_CHECKSUM` is 1 and the checksum is wrong, else the
`FRAME` event and the dispatch (41_frame_sync.md R187, R194). -/
def handOn (s : State) (f : FrameRec) : Host.Outcome State Fault Refusal :=
  if s.par.checkChecksum ∧ f.ckOk = false then .next s
  else onNext State.endMessage (dispatchMessage ((s.beginMessage f.cls f.id f.payload).emit [.frame f]))

/-- `complete()` for a frame of declared length `L` (41_frame_sync.md R187): the frame is copied out of the
buffer, `st` and `cnt` are reset, and the frame is handed on. -/
def complete (s : State) (L : Nat) : Host.Outcome State Fault Refusal :=
  match s.buf.fetchRange 0 (L + hdrLen + trlLen) with
  | .error f => .fault f
  | .ok bs => handOn (s.setSync .idle 0) (frameOf bs L)

/-- What follows the append of a byte, `c` bytes now in the buffer: no length test before the fourth byte
(41_frame_sync.md R185), the overflow guard (R186), completion (R187), or nothing (R188). -/
def afterAppend (s : State) (c : Nat) : Host.Outcome State Fault Refusal :=
  if c < hdrLen then .next s
  else
    match declaredLength s.buf with
    | .error f => .fault f
    | .ok L =>
      if c = hdrLen ∧ s.par.bufCap < L + hdrLen + trlLen then .next (s.setSync .idle 0)
      else if c = L + hdrLen + trlLen then complete s L
      else .next s

/-- `SYNC.ACC.APPEND`: `MemWrite(cnt, 1, b); cnt <- cnt + 1`, then the length tests (41_frame_sync.md R185). -/
def execSyncAccAppend (b : Byte) (s : State) : Host.Outcome State Fault Refusal :=
  match s.memWrite s.cnt.toNat b with
  | .error f => .fault f
  | .ok t => afterAppend (t.setSync t.st (t.cnt + 1)) (s.cnt.toNat + 1)

end Sys2Proof.Machine
end

