-- ==== Sys2Proof/Machine/Dispatch.lean ====
section
/-! DEFINITION. The meaning of every operation: one arm per constructor. -/

namespace Sys2Proof.Machine

def exec (i : Instr) (s : State) : Host.Outcome State Fault Refusal :=
  match i with
  | .syncIdleHit => Sys2Proof.Machine.execSyncIdleHit s
  | .syncIdleMiss b => Sys2Proof.Machine.execSyncIdleMiss b s
  | .syncSeen1Hit => Sys2Proof.Machine.execSyncSeen1Hit s
  | .syncSeen1Miss b => Sys2Proof.Machine.execSyncSeen1Miss b s
  | .syncAccAppend b => Sys2Proof.Machine.execSyncAccAppend b s
  | .trkRaw => Sys2Proof.Machine.execTrkRaw s
  | .trkNav => Sys2Proof.Machine.execTrkNav s
  | .ignore cls id => Sys2Proof.Machine.execIgnore cls id s
  | .rawT6 => Sys2Proof.Machine.execRawT6 s
  | .rawOther type => Sys2Proof.Machine.execRawOther type s
  | .navGps => Sys2Proof.Machine.execNavGps s
  | .navOther gnss => Sys2Proof.Machine.execNavOther gnss s
  | .sf1 => Sys2Proof.Machine.execSf1 s
  | .sf23 lo => Sys2Proof.Machine.execSf23 lo s
  | .sf45 lo => Sys2Proof.Machine.execSf45 lo s
  | .sfBad sfid => Sys2Proof.Machine.execSfBad sfid s
  | .rdU8 off => Sys2Proof.Machine.execRdU8 off s
  | .rdU16 off => Sys2Proof.Machine.execRdU16 off s
  | .rdU32 off => Sys2Proof.Machine.execRdU32 off s
  | .rdI32 off => Sys2Proof.Machine.execRdI32 off s
  | .rdI64 off => Sys2Proof.Machine.execRdI64 off s
  | .bfU a n => Sys2Proof.Machine.execBfU a n s
  | .bfS a n => Sys2Proof.Machine.execBfS a n s

end Sys2Proof.Machine
end

