-- ==== Sys2Proof/Machine/Moves.lean ====
section
/-! DEFINITION. What the moves of the environment do to the state (10_state.md R40, 70_reset_and_hazards.md
R380, R382): the helpers the step calls. -/

namespace Sys2Proof.Machine

/-- The next move of the reset input, and the other moves left as they stand: a byte that is not accepted is
held by the transport and keeps its place (70_reset_and_hazards.md R390, R395). -/
def takeRst : List Input → Option (Bool × List Input)
  | [] => none
  | .rst level :: rest => some (level, rest)
  | .byte b :: rest =>
    match takeRst rest with
    | none => none
    | some (level, rest') => some (level, .byte b :: rest')
  | .byteRst b k :: rest =>
    match takeRst rest with
    | none => none
    | some (level, rest') => some (level, .byteRst b k :: rest')

/-- The reset input takes a level: while it is high, and on its release, the state is the reset state; a low
level on a low input changes nothing (70_reset_and_hazards.md R380). -/
def State.moveRst (s : State) (level : Bool) : State := if s.rst || level then s.afterReset level else s

/-- The reset input rises inside a step whose events are pending: the first `k` of them have been delivered,
the others never are (70_reset_and_hazards.md R382). -/
def State.interrupt (s : State) (k : Nat) : State :=
  ({ s with evq := s.evq.take k }.deliver).afterReset true

/-- The state with the moves still to come replaced. -/
def State.setInq (s : State) (rest : List Input) : State := { s with inq := rest }

/-- The state with no inner operation issued. -/
def State.clearOp (s : State) : State := { s with op := none }

/-- While no byte is accepted only the reset input can move (10_state.md R40, 70_reset_and_hazards.md R390). -/
def State.waitRst (s : State) : State :=
  match takeRst s.inq with
  | none => s
  | some (level, rest) => (s.setInq rest).moveRst level

end Sys2Proof.Machine
end

