-- ==== Sys2Proof/Machine/Run.lean ====
section
/-! DEFINITION. What one step runs: an accepted byte with all it causes (10_state.md R31), a move of the reset
input, an inner operation issued by itself, or nothing (60_exceptions.md R364). -/

namespace Sys2Proof.Machine

/-- The operation a key selects runs on a state, or the step is refused by name. -/
def runKey (k : Except Reject Instr) (s : State) : Host.Outcome State Fault Refusal :=
  match k with
  | .ok i => exec i s
  | .error r => .refused (rejected r)

/-- A byte is accepted: the operation `st` and the byte select runs (41_frame_sync.md R180). -/
def acceptByte (b : Byte) (s : State) : Host.Outcome State Fault Refusal :=
  runKey (decodeByte (byteKey s.st b)) s

/-- The next move of the environment, at a ready block. -/
def takeMove (s : State) : Host.Outcome State Fault Refusal :=
  match s.inq with
  | [] => .next s
  | .byte b :: rest => onNext State.deliver (acceptByte b (s.setInq rest))
  | .byteRst b k :: rest => onNext (fun t => t.interrupt k) (acceptByte b (s.setInq rest))
  | .rst level :: rest => .next ((s.setInq rest).moveRst level)

/-- One step (10_state.md R31). While the reset input is high no byte is accepted and nothing runs (R40,
70_reset_and_hazards.md R380). -/
def runStep (s : State) : Host.Outcome State Fault Refusal :=
  if s.rst then .next s.waitRst
  else
    match s.op with
    | some k => onNext State.deliver (runKey (decodeInner k) s.clearOp)
    | none => if s.busy then .next s.waitRst else takeMove s

/-- The state whose next step runs the operation of a table word as its fetch finds it (log 1, log 2): for an
input byte, `st` and the byte of the key; for an inner operation, the key issued by itself, a frame's with the
class and id it is made of. A word no row reads changes nothing. -/
def State.placeWord (s : State) (nbits w : Nat) : State :=
  match tableKey nbits w with
  | none => s
  | some (.byte k) =>
    match SyncState.ofCode (k.extractLsb' 8 2) with
    | none => s
    | some v => { s with st := v, busy := false, rst := false, op := none, inq := .byte (k.setWidth 8) :: s.inq }
  | some (.inner (.frame opc)) =>
    { s with rst := false, op := some (.frame opc), cls := opc.extractLsb' 8 8, id := opc.setWidth 8 }
  | some (.inner k) => { s with rst := false, op := some k }

end Sys2Proof.Machine
end

