-- ==== Sys2Proof/Machine/Step.lean ====
section
/-! DEFINITION. One step of the machine, and the placing of a table word where the step finds it next. -/

namespace Sys2Proof.Machine

/-- One step (10_state.md R31). -/
def step (s : State) : Host.Outcome State Fault Refusal := runStep s

/-- The state whose next step runs the operation of a table word (log 1, log 2). -/
def State.withFetchWord (s : State) (nbits w : Nat) : State := s.placeWord nbits w

end Sys2Proof.Machine
end

