-- ==== Sys2Proof/Safety.lean ====
section
/-! DEFINITION. What counts as a safe state and a safe run, and the terms the statements use: payload bytes,
positions of the bit string, the bytes of a frame, the fields a record must carry. Each is written from the
spec's formulas, not from the machine's operations. -/

namespace Sys2Proof.Machine

/-- Bytes 0 to `n - 1` of the buffer were written (10_state.md R36). -/
def Memory.written (m : Memory) (n : Nat) : Prop := ∀ a < n, ∃ b, m.read a = some b

/-- `L`, once `buf[2]` and `buf[3]` hold bytes: `buf[2] | (buf[3] << 8)` (10_state.md R36). -/
def Memory.declares (m : Memory) (L : Nat) : Prop :=
  ∃ lo hi : Byte, m.read 2 = some lo ∧ m.read 3 = some hi ∧ L = lo.toNat + 256 * hi.toNat

/-- The state invariant: 10_state.md R49, with what R35, R36, R70 and the canonical form add. -/
structure State.Inv (s : State) : Prop where
  /-- The parameters are legal (00_scope.md R7, 70_reset_and_hazards.md R383). -/
  legal : s.par.legal = true
  /-- The buffer has its canonical form. -/
  bufWf : s.buf.wf
  /-- Every listed address exists (20_memory.md R70). -/
  bufBelow : ∀ c ∈ s.buf, c.1 < s.par.bufCap
  /-- `st = IDLE ∨ st = SEEN1 ⇒ cnt = 0` (10_state.md R49). -/
  cntZero : s.st ≠ .acc → s.cnt = 0
  /-- The bytes below `cnt` are defined (10_state.md R36). -/
  defined : s.st = .acc → s.buf.written s.cnt.toNat
  /-- `st = ACC ⇒ cnt ≤ 3 ∨ (cnt ≥ 4 ∧ cnt < L + 6 ∧ L + 6 ≤ BUF_CAP)` (10_state.md R49). -/
  bounded : s.st = .acc → s.cnt.toNat ≤ 3 ∨
    (4 ≤ s.cnt.toNat ∧ ∃ L, s.buf.declares L ∧ s.cnt.toNat < L + 6 ∧ L + 6 ≤ s.par.bufCap)
  /-- `busy = 0` at every step boundary (10_state.md R49). -/
  notBusy : s.busy = false
  /-- No event is pending at a step boundary (10_state.md R50, 70_reset_and_hazards.md R385). -/
  noPending : s.evq = []

/-- A state at which the step accepts a byte if one is offered. -/
def State.ready (s : State) : Prop := s.rst = false ∧ s.busy = false ∧ s.op = none ∧ s.evq = []

/-- A run of `n` steps that ends in a next state, and in which one. -/
def Reaches (n : Nat) (s t : State) : Prop := Host.Core.run Sys2Proof.core n s = .next t


/-- What a byte of the buffer reads as once byte `b` is appended at `cnt` (41_frame_sync.md R185). -/
def State.bufAfter (s : State) (b : Byte) (a : Nat) : Option Byte :=
  if a = s.cnt.toNat then some b else s.buf.read a

/-- `L` as the buffer declares it once byte `b` is appended at `cnt` (10_state.md R36). -/
def State.declaresAfter (s : State) (b : Byte) (L : Nat) : Prop :=
  ∃ lo hi : Byte, s.bufAfter b 2 = some lo ∧ s.bufAfter b 3 = some hi ∧ L = lo.toNat + 256 * hi.toNat

/-- The effect of an append on the buffer, seen through reads: the byte stands at the old `cnt`, every other
address reads as before. -/
def appended (s : State) (b : Byte) (t : State) : Prop := ∀ a, t.buf.read a = s.bufAfter b a

/-- `P[k]` as a number (20_memory.md R71). -/
def byteAt (P : List Byte) (k : Nat) : Nat := (P.getD k 0).toNat

/-- `Σ_{k<n} P[off + k] · 2^(8k)` (00_scope.md R14). -/
def leSum (P : List Byte) (off n : Nat) : Nat := ∑ k ∈ Finset.range n, byteAt P (off + k) * 2 ^ (8 * k)

/-- The two's-complement reading of an `N`-bit value, `v - 2^N · v[N-1]` (00_scope.md R13). -/
def twos (N v : Nat) : Int := (v : Int) - 2 ^ N * ((v / 2 ^ (N - 1) % 2 : Nat) : Int)

/-- `frm[p]`, position `p` from the left (00_scope.md R12). -/
def frmBit (frm : BitVec 240) (p : Nat) : Nat := if frm.getMsbD p then 1 else 0

/-- `frm⟨a, n⟩ = Σ_{k<n} frm[a + k] · 2^(n-1-k)` (00_scope.md R12). -/
def frmSum (frm : BitVec 240) (a n : Nat) : Nat := ∑ k ∈ Finset.range n, frmBit frm (a + k) * 2 ^ (n - 1 - k)

/-- The state once an exception's `ERR` is emitted and the message's working state dropped
(60_exceptions.md R356). -/
def State.erred (s : State) (e : ErrRec) : State :=
  { s with trValid := false, store := [], evq := s.evq ++ [.err e] }

/-- The `ERR` record of a `ShortPayload(off, n)` whose offset a u16 holds (10_state.md R45). -/
def shortErr (s : State) (off n : Nat) : ErrRec :=
  { code := 1, cls := s.cls, id := s.id, off := BitVec.ofNat 16 off, n := BitVec.ofNat 8 n, sfid := 0 }

/-- The state with one more event pending. -/
def State.with1 (s : State) (e : Event) : State := { s with evq := s.evq ++ [e] }

/-- An operation of a decode level below the input byte (30_encoding.md R122). -/
def Inner (i : Instr) : Prop := ∃ k, encode i = .inner k

/-- The checksummed bytes of `FRAME(c, i, p)` (30_encoding.md R140). -/
def frameBody (c i : Byte) (p : List Byte) : List Byte :=
  c :: i :: BitVec.ofNat 8 p.length :: BitVec.ofNat 8 (p.length / 256) :: p

/-- `FRAME(c, i, p)` on the wire, with the trailer of its checksum (30_encoding.md R140, 41_frame_sync.md R193). -/
def frameBytes (c i : Byte) (p : List Byte) : List Byte :=
  0xB5 :: 0x62 :: (frameBody c i p ++ [(fletcher (frameBody c i p)).1, (fletcher (frameBody c i p)).2])

/-- Bytes as the transport offers them. -/
def offered (bs : List Byte) : List Input := bs.map Input.byte

/-- The `FRAME` record of a frame whose bytes are right (10_state.md R42). -/
def goodFrame (c i : Byte) (p : List Byte) : FrameRec :=
  { cls := c, id := i, len := BitVec.ofNat 16 p.length, payload := p,
    ckA := (fletcher (frameBody c i p)).1, ckB := (fletcher (frameBody c i p)).2, ckOk := true }

/-- The block starts of a payload: `80 + 64k < L`, `ceil((L - 80) / 64)` of them (43_raw_measurement.md R243). -/
def blockOffsets (P : List Byte) : List Nat := (List.range ((P.length - 80 + 63) / 64)).map (fun k => 80 + 64 * k)

/-- The quality indicator of the block at `o` (30_encoding.md R117). -/
def qualityAt (par : Params) (P : List Byte) (o : Nat) : Nat := byteAt P (o + par.blk.qi) % 8

/-- The constellation of the block at `o`, if its code names one (30_encoding.md R112). -/
def tagAt (par : Params) (P : List Byte) (o : Nat) : Option Tag := tagOf par (P.getD (o + par.blk.gnss) 0)

/-- The block at `o` is a GPS candidate of pass 1 (43_raw_measurement.md R245). -/
def gpsCandidate (par : Params) (P : List Byte) (o : Nat) : Bool :=
  4 ≤ qualityAt par P o ∧ tagAt par P o = some .gps

/-- The block at `o` gives a record in pass 2 (43_raw_measurement.md R250, R251). -/
def givesRecord (par : Params) (P : List Byte) (o : Nat) : Bool :=
  4 ≤ qualityAt par P o ∧ (tagAt par P o).isSome

/-- The bytes that pass 1 reads of the block at `o` are in the payload (43_raw_measurement.md R245, R263). -/
def pass1Readable (par : Params) (P : List Byte) (o : Nat) : Prop :=
  o + par.blk.qi + 1 ≤ P.length ∧
  (4 ≤ qualityAt par P o → o + par.blk.gnss + 1 ≤ P.length ∧ o + par.blk.rawTime + 8 ≤ P.length)

/-- The bytes that pass 2 reads besides are in the payload (43_raw_measurement.md R250, R263). -/
def pass2Readable (par : Params) (P : List Byte) (o : Nat) : Prop :=
  4 ≤ qualityAt par P o → o + par.blk.sv + 1 ≤ P.length ∧
    ((tagAt par P o).isSome → o + par.blk.rawDop + 4 ≤ P.length ∧ o + par.blk.rawSnr + 2 ≤ P.length ∧
      (6 ≤ qualityAt par P o → o + par.blk.flag + 1 ≤ P.length ∧ o + par.blk.rawAdr + 8 ≤ P.length))

/-- A type-6 payload that both passes can read through, with a block that gives the reference receive time
(43_raw_measurement.md R240, R248). -/
structure Decodable (par : Params) (P : List Byte) : Prop where
  header : 80 ≤ P.length
  pass1 : ∀ o ∈ blockOffsets P, pass1Readable par P o
  pass2 : ∀ o ∈ blockOffsets P, pass2Readable par P o
  reference : ∃ o ∈ blockOffsets P, gpsCandidate par P o = true

/-- `raw_time` of the block at `o` (30_encoding.md R107, R114). -/
def rawTimeAt (par : Params) (P : List Byte) (o : Nat) : Int := twos 64 (leSum P (o + par.blk.rawTime) 8)

/-- `raw_adr` of the block at `o`. -/
def rawAdrAt (par : Params) (P : List Byte) (o : Nat) : Int := twos 64 (leSum P (o + par.blk.rawAdr) 8)

/-- `raw_dop` of the block at `o`. -/
def rawDopAt (par : Params) (P : List Byte) (o : Nat) : Int := twos 32 (leSum P (o + par.blk.rawDop) 4)

/-- `raw_snr` of the block at `o`. -/
def rawSnrAt (par : Params) (P : List Byte) (o : Nat) : Nat := leSum P (o + par.blk.rawSnr) 2

/-- Bit 0 of the flag byte of the block at `o` (30_encoding.md R118). -/
def halfAt (par : Params) (P : List Byte) (o : Nat) : Bool := byteAt P (o + par.blk.flag) % 2 = 1

/-- The integer fields that the record of the block at `o` carries (10_state.md R43, 43_raw_measurement.md R250
to R252, R256). -/
structure RawFields (par : Params) (P : List Byte) (o : Nat) (r : Obs) : Prop where
  gnss : r.gnss = P.getD (o + par.blk.gnss) 0
  prn : r.prn.toNat = byteAt P (o + par.blk.sv) + (if tagAt par P o = some .qzss then 192 else 0)
  qi : r.qi.toNat = qualityAt par P o
  rawTime : r.rawTime.toInt = rawTimeAt par P o
  rawAdr : r.rawAdr.toInt = if qualityAt par P o < 6 then 0 else rawAdrAt par P o
  rawDop : r.rawDop.toInt = rawDopAt par P o
  rawSnr : r.rawSnr.toNat = rawSnrAt par P o
  half : r.half = if qualityAt par P o < 6 then false else halfAt par P o
  last : r.last = false

/-- `raw_time × 2^-32 / 1000`, operation by operation (43_raw_measurement.md R246, 00_scope.md R15). -/
def writtenTime (m : Numerics) (r : Int) : Scalar :=
  Scalar.div m (Scalar.mul m (Scalar.ofInt m r) (Scalar.ofRat m (1 / 2 ^ 32))) (Scalar.ofInt m 1000)

/-- `0.1 × round((t + 0.08) / 0.1)`, operation by operation (43_raw_measurement.md R249). -/
def writtenSnap (m : Numerics) (mode : RoundMode) (t : Scalar) : Scalar :=
  Scalar.mul m (Scalar.ofRat m (1 / 10))
    (Scalar.round m mode (Scalar.div m (Scalar.add m t (Scalar.ofRat m (8 / 100))) (Scalar.ofRat m (1 / 10))))

/-- `week_wrap(x)`, operation by operation (43_raw_measurement.md R253). -/
def writtenWrap (m : Numerics) (x : Scalar) : Scalar :=
  if x.lt (Scalar.ofInt m (-302400)) then Scalar.add m x (Scalar.ofInt m 604800)
  else if (Scalar.ofInt m 302400).lt x then Scalar.sub m x (Scalar.ofInt m 604800)
  else x

/-- `raw_adr × 2^-32 + (0.5 if half else 0)`, operation by operation (43_raw_measurement.md R250, R256). -/
def writtenPhase (m : Numerics) (ra : Int) (h : Bool) : Scalar :=
  Scalar.add m (Scalar.mul m (Scalar.ofInt m ra) (Scalar.ofRat m (1 / 2 ^ 32)))
    (if h then Scalar.ofRat m (1 / 2) else Scalar.ofInt m 0)

/-- `raw_dop × 2^-10 / 4`, operation by operation (43_raw_measurement.md R258). -/
def writtenDoppler (m : Numerics) (rd : Int) : Scalar :=
  Scalar.div m (Scalar.mul m (Scalar.ofInt m rd) (Scalar.ofRat m (1 / 2 ^ 10))) (Scalar.ofInt m 4)

/-- The time of the block at `o` under the parameter `NUMERICS` (43_raw_measurement.md R246). -/
def timeAt (par : Params) (P : List Byte) (o : Nat) : Scalar := writtenTime par.numerics (rawTimeAt par P o)

/-- `P = tau × C_LIGHT` for every kind of `C_LIGHT` (43_raw_measurement.md R255, 00_scope.md R7, R15; log 12). -/
structure RangeOf (par : Params) (tau : Scalar) (p : Pseudorange) : Prop where
  rational : ∀ c, par.cLight = .rational c → p = .real (Scalar.mul par.numerics tau (Scalar.ofRat par.numerics c))
  rounded : ∀ w, par.cLight = .irrational w → par.numerics = .binary64 →
    p = .real (Scalar.mul .binary64 tau (.bits w))
  product : ∀ w q, par.cLight = .irrational w → par.numerics = .exact → tau = .exact q →
    p = if q = 0 then .real (.exact 0) else .timesLight q

/-- The derived fields of that record, each the written operations of the parameter `NUMERICS` on the raw
fields and the message's receive time (43_raw_measurement.md R246, R250, R252 to R260). -/
structure DerivedFields (par : Params) (P : List Byte) (t : Scalar) (o : Nat) (r : Obs) : Prop where
  tr : r.tr = t
  tau : r.tau = writtenWrap par.numerics (Scalar.sub par.numerics t (timeAt par P o))
  p : RangeOf par r.tau r.p
  d : r.d = writtenDoppler par.numerics (rawDopAt par P o)
  snr : r.snr = Scalar.div par.numerics (Scalar.ofInt par.numerics (rawSnrAt par P o)) (Scalar.ofInt par.numerics 256)
  lCp : r.lCp = Scalar.neg par.numerics
    (if qualityAt par P o < 6 then Scalar.ofInt par.numerics 0
      else writtenPhase par.numerics (rawAdrAt par P o) (halfAt par P o))

/-- `x` once wrapped into the week (43_raw_measurement.md R253), over the rationals. -/
def weekWrapRat (x : Rat) : Rat :=
  if x < -302400 then x + 604800 else if 302400 < x then x - 604800 else x

/-- The parameter stands for the real `c` (00_scope.md R7: any positive real; log 12). -/
def IsLightSpeed (v : LightSpeed) (c : ℝ) : Prop :=
  match v with
  | .rational q => c = (q : ℝ)
  | .irrational _ => Irrational c

/-- A pseudorange stands for the real `x`, `C_LIGHT` being the real `c`. -/
def RangeDenotes (c : ℝ) (p : Pseudorange) (x : ℝ) : Prop :=
  match p with
  | .real (.exact q) => x = (q : ℝ)
  | .real _ => False
  | .timesLight q => x = (q : ℝ) * c

/-- The derived fields of the record of the block at `o` under `EXACT`, the receive time being `t`
(43_raw_measurement.md R252, R253, R255, R256, R258 to R260). -/
structure ExactFields (par : Params) (P : List Byte) (t : Rat) (o : Nat) (r : Obs) : Prop where
  tr : r.tr = .exact t
  tau : r.tau = .exact (weekWrapRat (t - rawTimeAt par P o / (1000 * 2 ^ 32)))
  p : ∀ c : ℝ, IsLightSpeed par.cLight c →
    RangeDenotes c r.p ((weekWrapRat (t - rawTimeAt par P o / (1000 * 2 ^ 32)) : ℝ) * c)
  d : r.d = .exact (rawDopAt par P o / 4096)
  snr : r.snr = .exact (rawSnrAt par P o / 256)
  lCp : r.lCp = .exact (if qualityAt par P o < 6 then 0
    else -(rawAdrAt par P o / 2 ^ 32 + if halfAt par P o then 1 / 2 else 0))

/-- The transmit time of the block at `o` under `EXACT`, in seconds (43_raw_measurement.md R246). -/
def exactTimeAt (par : Params) (P : List Byte) (o : Nat) : Rat := rawTimeAt par P o / (1000 * 2 ^ 32)

/-- The integer nearest to ten times `x + 0.08`, a tie as `ROUND_MODE` says (00_scope.md R15,
43_raw_measurement.md R249). -/
structure NearestTick (mode : RoundMode) (x : Rat) (n : Int) : Prop where
  near : |(n : Rat) - (x + 8 / 100) * 10| ≤ 1 / 2
  tieEven : mode = .halfEven → |(n : Rat) - (x + 8 / 100) * 10| = 1 / 2 → n % 2 = 0
  tieAway : mode = .halfAway → |(n : Rat) - (x + 8 / 100) * 10| = 1 / 2 → |(x + 8 / 100) * 10| < |(n : Rat)|

/-- The record with its `last` bit cleared. -/
def unmarked (o : Obs) : Obs := { o with last := false }

/-- The 24 data bits of transport word `i` of a payload (30_encoding.md R109). -/
def dataAt (P : List Byte) (i : Nat) : Nat := leSum P (13 + 4 * i) 4 / 64 % 2 ^ 24

/-- The subframe-1 fields that a record carries, from the bit string (44_nav_subframe.md R307 to R313). -/
structure Subframe1 (lay : SfLayout) (frm : BitVec 240) (f : NavFields) : Prop where
  towRaw : f.towRaw.toNat = frmSum frm lay.towRaw 17
  tow : f.tow = frmSum frm lay.towRaw 17 * 6
  wn : f.wn.toNat = frmSum frm lay.wn 10
  codeL2 : f.codeL2.toNat = frmSum frm lay.codeL2 2
  ura : f.ura.toNat = frmSum frm lay.ura 4
  health : f.health.toNat = frmSum frm lay.health 6
  iodc : f.iodc.toNat = frmSum frm lay.iodcHi 2 * 256 + frmSum frm lay.iodcLo 8
  tgdRaw : f.tgdRaw.toInt = twos 8 (frmSum frm lay.tgdRaw 8)
  tgd : f.tgd.val = ratVal (twos 8 (frmSum frm lay.tgdRaw 8) / 2 ^ 31)
  tocRaw : f.tocRaw.toNat = frmSum frm lay.tocRaw 16
  toc : f.toc = frmSum frm lay.tocRaw 16 * 16
  af2Raw : f.af2Raw.toInt = twos 8 (frmSum frm lay.af2Raw 8)
  af2 : f.af2.val = ratVal (twos 8 (frmSum frm lay.af2Raw 8) / 2 ^ 55)
  af1Raw : f.af1Raw.toInt = twos 16 (frmSum frm lay.af1Raw 16)
  af1 : f.af1.val = ratVal (twos 16 (frmSum frm lay.af1Raw 16) / 2 ^ 43)
  af0Raw : f.af0Raw.toInt = twos 22 (frmSum frm lay.af0Raw 22)
  af0 : f.af0.val = ratVal (twos 22 (frmSum frm lay.af0Raw 22) / 2 ^ 31)

end Sys2Proof.Machine
end

