-- ==== Sys2Proof/Certificates/Slice0/Obligations.lean ====
section
/-! DEFINITION. The statements for the provers. Each docstring names the rules of spec/ it formalises; where a
statement rests on a choice of the model, it names the log entry. -/

open Sys2Proof Sys2Proof.Machine

/-- 41_frame_sync.md R181. -/
def Obligations.SyncIdleHitGoesToSeen1 : Prop :=
  ∀ s : State, (s.st = .idle → decodeByte (byteKey s.st 0xB5) = .ok .syncIdleHit) ∧
    exec .syncIdleHit s = .next { s with st := .seen1 }

/-- 41_frame_sync.md R182. -/
def Obligations.SyncIdleMissChangesNothing : Prop :=
  ∀ (s : State) (b : Byte), b ≠ 0xB5 →
    (s.st = .idle → decodeByte (byteKey s.st b) = .ok (.syncIdleMiss b)) ∧
    exec (.syncIdleMiss b) s = .next s

/-- 41_frame_sync.md R183. -/
def Obligations.SyncSeen1HitEntersAcc : Prop :=
  ∀ s : State, (s.st = .seen1 → decodeByte (byteKey s.st 0x62) = .ok .syncSeen1Hit) ∧
    exec .syncSeen1Hit s = .next { s with st := .acc, cnt := 0 }

/-- 41_frame_sync.md R184. -/
def Obligations.SyncSeen1MissReturnsToIdle : Prop :=
  ∀ (s : State) (b : Byte), b ≠ 0x62 →
    (s.st = .seen1 → decodeByte (byteKey s.st b) = .ok (.syncSeen1Miss b)) ∧
    exec (.syncSeen1Miss b) s = .next { s with st := .idle }

/-- 41_frame_sync.md R188, with the append of R185: the byte goes to the address `cnt`, every other address reads
as before, `cnt` rises by one, and nothing else changes. No byte value in `ACC` selects another operation. -/
def Obligations.AppendContinues : Prop :=
  ∀ (s : State) (b : Byte), s.cnt.toNat < s.par.bufCap →
    (s.cnt.toNat + 1 < 4 ∨ ∃ L, s.declaresAfter b L ∧ 4 ≤ s.cnt.toNat + 1 ∧ s.cnt.toNat + 1 ≠ L + 6 ∧
      (s.cnt.toNat + 1 = 4 → L + 6 ≤ s.par.bufCap)) →
    (s.st = .acc → decodeByte (byteKey s.st b) = .ok (.syncAccAppend b)) ∧
    ∃ t, exec (.syncAccAppend b) s = .next t ∧ appended s b t ∧
      { t with buf := s.buf } = { s with cnt := s.cnt + 1 }

/-- 41_frame_sync.md R186. -/
def Obligations.OverflowGuardDiscards : Prop :=
  (∀ (s : State) (b : Byte) (L : Nat), s.cnt.toNat = 3 → 3 < s.par.bufCap → s.declaresAfter b L →
    s.par.bufCap < L + 6 →
    ∃ t, exec (.syncAccAppend b) s = .next t ∧ appended s b t ∧
      { t with buf := s.buf } = { s with st := .idle, cnt := 0 }) ∧
  (∀ (s : State) (b : Byte) (L : Nat), s.par.bufCap = 65541 → s.declaresAfter b L → ¬ s.par.bufCap < L + 6)

/-- 41_frame_sync.md R187, R189, R194: the byte that makes `cnt = L + 6` completes the frame. With
`CHECK_CHECKSUM` 1 and a wrong checksum the frame is discarded; otherwise the `FRAME` event is emitted and the
operation the frame's `OPC` selects runs on the message. The `FRAME` fields are the buffer bytes. That the message
is latched and the working state of the one before it cleared is the model's choice (log 6, log 19). -/
def Obligations.AppendCompletesFrame : Prop :=
  ∀ (s : State) (b : Byte) (L : Nat) (f : Nat → Byte), s.cnt.toNat < s.par.bufCap →
    s.cnt.toNat + 1 = L + 6 → s.declaresAfter b L → (∀ a < L + 6, s.bufAfter b a = some (f a)) →
    let ok := decide ((f (L + 4), f (L + 5)) = fletcher ((List.range (L + 4)).map f))
    let fr : FrameRec :=
      { cls := f 0, id := f 1, len := BitVec.ofNat 16 L, payload := (List.range L).map (fun k => f (4 + k)),
        ckA := f (L + 4), ckB := f (L + 5), ckOk := ok }
    let m : State := { s with st := .idle, cnt := 0, buf := s.buf.write s.cnt.toNat b }
    (s.par.checkChecksum = true ∧ ok = false → exec (.syncAccAppend b) s = .next m) ∧
    (¬ (s.par.checkChecksum = true ∧ ok = false) →
      ∃ u, exec (decodeFrame (opcodeOf (f 0) (f 1)))
          { m with busy := true, cls := f 0, id := f 1, pay := fr.payload, trValid := false, store := [],
                   evq := s.evq ++ [.frame fr] } = .next u ∧
        exec (.syncAccAppend b) s = .next { u with busy := false })

/-- 41_frame_sync.md R193, in closed form: the first sum is that of the bytes, the second that of the running
sums, both modulo 256. -/
def Obligations.FletcherIsTheTwoSums : Prop :=
  ∀ bs : List Byte,
    (fletcher bs).1.toNat = (∑ k ∈ Finset.range bs.length, byteAt bs k) % 256 ∧
    (fletcher bs).2.toNat = (∑ k ∈ Finset.range bs.length, (bs.length - k) * byteAt bs k) % 256

/-- 41_frame_sync.md R191. -/
def Obligations.LeavingAccEmptiesBuffer : Prop :=
  ∀ s t : State, (s.st ≠ .acc → s.cnt = 0) → step s = .next t → t.st ≠ .acc → t.cnt = 0

/-- 10_state.md R49, with R35, R36, 20_memory.md R70 and the buffer's canonical form (log 4). -/
def Obligations.InvKeptByEveryStep : Prop := ∀ s t : State, s.Inv → step s = .next t → t.Inv

/-- 10_state.md R49, R50: the reset state, with any legal parameters and anything offered. -/
def Obligations.ResetMeetsInv : Prop :=
  State.reset.Inv ∧
  ∀ (par : Params) (is : List Input), par.legal = true → ({ State.reset with par := par, inq := is } : State).Inv

/-- 60_exceptions.md R358: no input sequence halts the block, from any state of the invariant. -/
def Obligations.NoInputHaltsTheBlock : Prop :=
  ∀ s : State, s.Inv → s.op = none → ∀ n, ∃ t, Reaches n s t ∧ t.Inv ∧ t.op = none

/-- 41_frame_sync.md R196. -/
def Obligations.FrameRoundTrip : Prop :=
  ∀ (s : State) (c i : Byte) (p : List Byte) (rest : List Input), s.ready → s.st = .idle →
    s.par.bufCap ≤ 65541 → p.length + 6 ≤ s.par.bufCap → s.inq = offered (frameBytes c i p) ++ rest →
    (∃ w, Reaches (p.length + 7) s w ∧ w.out = s.out) ∧
    ∃ t u, Reaches (p.length + 8) s t ∧
      exec (decodeFrame (opcodeOf c i)) (s.beginMessage c i p) = .next u ∧
      t.st = .idle ∧ t.cnt = 0 ∧ t.inq = rest ∧ t.out = s.out ++ .frame (goodFrame c i p) :: u.evq

/-- 41_frame_sync.md R195, 70_reset_and_hazards.md R393: a byte sequence offered in two deliveries gives what it
gives in one. -/
def Obligations.StreamSplitLaw : Prop :=
  ∀ (s t u : State) (bs cs : List Byte), s.ready → Reaches bs.length { s with inq := offered bs } t →
    (Reaches cs.length { t with inq := offered cs } u ↔
      Reaches (bs.length + cs.length) { s with inq := offered (bs ++ cs) } u)

/-- 70_reset_and_hazards.md R380, R390 (the shape of the reset input's moves is the model's, log 9, and so are the
values of `frm`, `tr`, `cls`, `id`, `pay` and `rd` in the reset state, log 5): a rising
reset input, and its release, give the reset state whatever the state was; a byte offered meanwhile is held; and
with the input high and no move of it to come nothing happens. -/
def Obligations.ResetFromAnyState : Prop :=
  (∀ (s : State) (rest : List Input), s.ready → s.inq = .rst true :: rest →
    step s = .next { State.reset with par := s.par, rst := true, inq := rest, out := s.out }) ∧
  (∀ (s : State) (bs : List Byte) (rest : List Input), s.rst = true → s.inq = offered bs ++ .rst false :: rest →
    step s = .next { State.reset with par := s.par, inq := offered bs ++ rest, out := s.out }) ∧
  (∀ s : State, s.rst = true → (∀ l, Input.rst l ∉ s.inq) → step s = .next s)

/-- 70_reset_and_hazards.md R382: a reset inside a byte's step delivers a prefix of that step's events, of any
length, and leaves the reset state (log 9; its values the spec does not state are those of log 5). -/
def Obligations.ResetInsideAStepDeliversAPrefix : Prop :=
  ∀ (s t : State) (b : Byte) (k : Nat) (rest : List Input) (i : Instr), s.ready → s.inq = .byteRst b k :: rest →
    decodeByte (byteKey s.st b) = .ok i → exec i { s with inq := rest } = .next t →
    step s = .next { State.reset with par := s.par, rst := true, inq := rest, out := s.out ++ t.evq.take k }

/-- 10_state.md R50: the reset values the spec states. -/
def Obligations.ResetValues : Prop :=
  State.reset.st = .idle ∧ State.reset.cnt = 0 ∧ State.reset.busy = false ∧ State.reset.inReady = true ∧
  State.reset.evValid = false ∧ State.reset.trValid = false ∧ State.reset.store = []

/-- 70_reset_and_hazards.md R384, 60_exceptions.md R364: with nothing offered the block keeps its state and emits
nothing, for any number of steps. -/
def Obligations.NothingOfferedNothingHappens : Prop :=
  ∀ (s : State) (n : Nat), s.op = none → s.inq = [] → Reaches n s s

/-- 41_frame_sync.md R180, 10_state.md R31: a step runs the operation that `st` and the byte select, or the
inner operation issued by itself (log 1), and delivers its events. -/
def Obligations.StepRunsTheDecodedOperation : Prop :=
  (∀ (s : State) (b : Byte) (rest : List Input) (i : Instr), s.rst = false → s.busy = false → s.op = none →
    s.inq = .byte b :: rest → decodeByte (byteKey s.st b) = .ok i →
    step s = onNext State.deliver (exec i { s with inq := rest })) ∧
  (∀ (s : State) (k : InnerKey) (i : Instr), s.rst = false → s.op = some k → decodeInner k = .ok i →
    step s = onNext State.deliver (exec i { s with op := none }))

/-- 30_encoding.md R104, R105, R113, R120, R122: the key of every well-formed operation decodes to it. -/
def Obligations.EveryEncodedOperationDecodesBack : Prop := ∀ i : Instr, i.wf = true → decode (encode i) = .ok i

/-- 30_encoding.md R104, R105, R113, R120 to R122: each key of the first five levels has one meaning, a well-formed
operation whose key it is; a reader key that decodes does so to an operation whose key has the same `rd_op` and the
same operand wires where the operation uses them, its other wires 0 (log 24), well formed when a bit field's operands
are in range; no row matches exactly the keys with `st = 3` or `rd_op = 111`. -/
def Obligations.EveryKeyHasOneMeaning : Prop :=
  (∀ (k : BitVec 10) (i : Instr), decodeByte k = .ok i → i.wf = true ∧ encode i = .byte k) ∧
  (∀ opc : BitVec 16, (decodeFrame opc).wf = true ∧ encode (decodeFrame opc) = .inner (.frame opc)) ∧
  (∀ t : Byte, (decodeRaw t).wf = true ∧ encode (decodeRaw t) = .inner (.raw t)) ∧
  (∀ g : Byte, (decodeNav g).wf = true ∧ encode (decodeNav g) = .inner (.nav g)) ∧
  (∀ x : BitVec 3, (decodeSubframe x).wf = true ∧ encode (decodeSubframe x) = .inner (.subframe x)) ∧
  (∀ (r : BitVec 3) (off : BitVec 16) (a : BitVec 8) (n : BitVec 6) (i : Instr), decodeReader r off a n = .ok i →
    encode i = .inner (if r.toNat < 5 then .reader r off 0 0 else .reader r 0 a n) ∧
    (i.wf = true ↔ r.toNat < 5 ∨ (1 ≤ n.toNat ∧ n.toNat ≤ 24 ∧ a.toNat + n.toNat ≤ 240))) ∧
  (∀ k : BitVec 10, (∃ r, decodeByte k = .error r) ↔ 768 ≤ k.toNat) ∧
  (∀ k : InnerKey, (∃ r, decodeInner k = .error r) ↔ ∃ off a n, k = .reader 7 off a n)

/-- 30_encoding.md R104, R105, R113, R120: words written out from the encodings. -/
def Obligations.SpecWordsDecode : Prop :=
  decodeByte 0b0010110101 = .ok .syncIdleHit ∧ decodeByte 0b0101100010 = .ok .syncSeen1Hit ∧
  decodeByte 0b1010110101 = .ok (.syncAccAppend 0xB5) ∧ decodeFrame 0x030A = .trkRaw ∧
  decodeFrame 0x0A03 = .ignore 0x0A 0x03 ∧ decodeRaw 0x86 = .rawOther 0x86 ∧ decodeNav 0x00 = .navGps ∧
  decodeSubframe 0b101 = .sf45 1 ∧ decodeReader 0b110 0 160 8 = .ok (.bfS 160 8)

/-- 40_field_reader.md R151, R152, R153; the result stands in the model's result output (log 18). -/
def Obligations.UnsignedReads : Prop :=
  ∀ (s : State) (off : BitVec 16),
    (∀ a n, decodeReader 0b000 off a n = .ok (.rdU8 off) ∧ decodeReader 0b001 off a n = .ok (.rdU16 off) ∧
      decodeReader 0b010 off a n = .ok (.rdU32 off)) ∧
    (off.toNat + 1 ≤ s.pay.length → exec (.rdU8 off) s = .next { s with rd := leSum s.pay off.toNat 1 }) ∧
    (s.pay.length < off.toNat + 1 → exec (.rdU8 off) s = .next (s.erred (shortErr s off.toNat 1))) ∧
    (off.toNat + 2 ≤ s.pay.length → exec (.rdU16 off) s = .next { s with rd := leSum s.pay off.toNat 2 }) ∧
    (s.pay.length < off.toNat + 2 → exec (.rdU16 off) s = .next (s.erred (shortErr s off.toNat 2))) ∧
    (off.toNat + 4 ≤ s.pay.length → exec (.rdU32 off) s = .next { s with rd := leSum s.pay off.toNat 4 }) ∧
    (s.pay.length < off.toNat + 4 → exec (.rdU32 off) s = .next (s.erred (shortErr s off.toNat 4)))

/-- 40_field_reader.md R154, R155; the result stands in the model's result output (log 18). -/
def Obligations.SignedReads : Prop :=
  ∀ (s : State) (off : BitVec 16),
    (∀ a n, decodeReader 0b011 off a n = .ok (.rdI32 off) ∧ decodeReader 0b100 off a n = .ok (.rdI64 off)) ∧
    (off.toNat + 4 ≤ s.pay.length →
      exec (.rdI32 off) s = .next { s with rd := twos 32 (leSum s.pay off.toNat 4) }) ∧
    (s.pay.length < off.toNat + 4 → exec (.rdI32 off) s = .next (s.erred (shortErr s off.toNat 4))) ∧
    (off.toNat + 8 ≤ s.pay.length →
      exec (.rdI64 off) s = .next { s with rd := twos 64 (leSum s.pay off.toNat 8) }) ∧
    (s.pay.length < off.toNat + 8 → exec (.rdI64 off) s = .next (s.erred (shortErr s off.toNat 8)))

/-- 40_field_reader.md R156; the result stands in the model's result output (log 18). -/
def Obligations.UnsignedBitField : Prop :=
  ∀ (s : State) (a : BitVec 8) (n : BitVec 6), 1 ≤ n.toNat → n.toNat ≤ 24 → a.toNat + n.toNat ≤ 240 →
    (∀ off, decodeReader 0b101 off a n = .ok (.bfU a n)) ∧
    exec (.bfU a n) s = .next { s with rd := frmSum s.frm a.toNat n.toNat }

/-- 40_field_reader.md R157; the result stands in the model's result output (log 18). -/
def Obligations.SignedBitField : Prop :=
  ∀ (s : State) (a : BitVec 8) (n : BitVec 6), 1 ≤ n.toNat → n.toNat ≤ 24 → a.toNat + n.toNat ≤ 240 →
    (∀ off, decodeReader 0b110 off a n = .ok (.bfS a n)) ∧
    exec (.bfS a n) s = .next { s with rd := twos n.toNat (frmSum s.frm a.toNat n.toNat) }

/-- The model's choice, log 7: a bit-field operation runs on operands outside R156's range too, and changes only
the result output. -/
def Obligations.BitFieldRunsOnEveryOperand : Prop :=
  ∀ (s : State) (a : BitVec 8) (n : BitVec 6),
    (∃ v, exec (.bfU a n) s = .next { s with rd := v }) ∧ (∃ v, exec (.bfS a n) s = .next { s with rd := v })

/-- 20_memory.md R76: reads of different widths see the same bytes. -/
def Obligations.WiderReadIsTheNarrowerReadsJoined : Prop :=
  ∀ (P : List Byte) (off m n v : Nat), memRead P off (m + n) = .ok v →
    ∃ lo hi, memRead P off m = .ok lo ∧ memRead P (off + m) n = .ok hi ∧ v = lo ||| (hi <<< (8 * m))

/-- 42_dispatch.md R221, 30_encoding.md R113: the discriminator selects the raw decoder's operation. -/
def Obligations.TrkRawSelectsByDiscriminator : Prop :=
  (∀ s : State, s.pay = [] → exec .trkRaw s = .next (s.erred (shortErr s 0 1))) ∧
  (∀ (s : State) (t : Byte) (rest : List Byte), s.pay = t :: rest →
    ∃ u, exec (decodeRaw t) s = .next u ∧ exec .trkRaw s = .next u)

/-- 42_dispatch.md R222, 30_encoding.md R113: the constellation code selects the navigation decoder's operation. -/
def Obligations.TrkNavSelectsByConstellation : Prop :=
  ∀ s : State, s.par.legal = true →
    (s.pay.length ≤ s.par.navGnssOff → exec .trkNav s = .next (s.erred (shortErr s s.par.navGnssOff 1))) ∧
    (s.par.navGnssOff < s.pay.length →
      ∃ u, exec (decodeNav (s.pay.getD s.par.navGnssOff 0)) s = .next u ∧ exec .trkNav s = .next u)

/-- 42_dispatch.md R223. -/
def Obligations.OtherPairsAreIgnored : Prop :=
  ∀ (s : State) (c i : Byte), (c, i) ≠ (0x03, 0x0A) → (c, i) ≠ (0x03, 0x0F) →
    decodeFrame (opcodeOf c i) = .ignore c i ∧ exec (.ignore c i) s = .next s

/-- 42_dispatch.md R224, 60_exceptions.md R355, R356: what an inner operation emits is one `ERR`, with the
working state dropped, or only `OBS` records, or one `NAV`. -/
def Obligations.DecodeIsAllOrNothing : Prop :=
  ∀ (i : Instr) (s t : State), Inner i → exec i s = .next t →
    ∃ E, t.evq = s.evq ++ E ∧
      ((∃ e, E = [.err e] ∧ t.store = [] ∧ t.trValid = false) ∨ (∃ os : List Obs, E = os.map Event.obs) ∨
        ∃ n, E = [.nav n])

/-- 20_memory.md R74, 40_field_reader.md R159, 60_exceptions.md R356: an inner operation changes at most the
working state, the reader's result output and the pending events. -/
def Obligations.InnerOperationsFrame : Prop :=
  ∀ (i : Instr) (s t : State), Inner i → exec i s = .next t →
    t = { s with frm := t.frm, tr := t.tr, trValid := t.trValid, store := t.store, rd := t.rd, evq := t.evq }

/-- 20_memory.md R74: only `SYNC.ACC.APPEND` writes the buffer, one byte at address `cnt`. -/
def Obligations.OnlyAppendWritesTheBuffer : Prop :=
  ∀ (i : Instr) (s t : State) (a : Nat), exec i s = .next t → t.buf.read a ≠ s.buf.read a →
    ∃ b, i = .syncAccAppend b ∧ a = s.cnt.toNat ∧ t.buf.read a = some b

/-- 00_scope.md R7, 10_state.md R46: no step changes a parameter. -/
def Obligations.ParametersNeverChange : Prop := ∀ s t : State, step s = .next t → t.par = s.par

/-- 20_memory.md R86, 42_dispatch.md R220, 60_exceptions.md R355: a step adds to what was delivered nothing, or
one `FRAME` and after it events that are no `FRAME`. -/
def Obligations.EventsLeaveInOrder : Prop :=
  ∀ s t : State, s.ready → step s = .next t →
    t.evq = [] ∧ ∃ E, t.out = s.out ++ E ∧ (E = [] ∨ ∃ f E', E = .frame f :: E' ∧ ∀ g, Event.frame g ∉ E')

/-- 43_raw_measurement.md R241. -/
def Obligations.OtherDiscriminatorsEmitNothing : Prop :=
  ∀ (s : State) (t : Byte), t ≠ 6 → decodeRaw t = .rawOther t ∧ exec (.rawOther t) s = .next s

/-- 43_raw_measurement.md R242. -/
def Obligations.RawHeaderCheck : Prop :=
  ∀ s : State, (s.pay.length < 80 → exec .rawT6 s = .next (s.erred (shortErr s 0 80))) ∧
    (s.pay.length = 80 → exec .rawT6 s = .next s)

/-- 43_raw_measurement.md R243. -/
def Obligations.BlocksAreEveryStartBelowL : Prop :=
  ∀ L, 80 ≤ L → (∀ o, o ∈ blockStarts L ↔ ∃ k, o = 80 + 64 * k ∧ o < L) ∧
    (blockStarts L).Pairwise (· < ·) ∧ ((blockStarts L).length : ℤ) = ⌈((L : ℚ) - 80) / 64⌉

/-- 43_raw_measurement.md R248: no qualifying GPS block, no output; what pass 2 would have read is not checked. -/
def Obligations.NoGpsReferenceNoOutput : Prop :=
  ∀ s : State, 80 ≤ s.pay.length → (∀ o ∈ blockOffsets s.pay, pass1Readable s.par s.pay o) →
    (∀ o ∈ blockOffsets s.pay, gpsCandidate s.par s.pay o = false) → exec .rawT6 s = .next s

/-- 43_raw_measurement.md R250, R251, R256, R261: the records in the store are those of the qualifying blocks, in
block order, with the raw fields of their blocks; each is emitted once; nothing but the working state and the
pending events changes. -/
def Obligations.RawRecordsOfQualifyingBlocks : Prop :=
  ∀ s : State, Decodable s.par s.pay →
    ∃ (t : State) (os : List Obs), exec .rawT6 s = .next t ∧
      t = { s with tr := t.tr, trValid := true, store := t.store, evq := s.evq ++ os.map Event.obs } ∧
      List.Forall₂ (RawFields s.par s.pay) ((blockOffsets s.pay).filter (givesRecord s.par s.pay)) t.store ∧
      (os.map unmarked).Perm t.store

/-- 43_raw_measurement.md R246, R250, R252 to R260, 00_scope.md R15: the derived fields of each record, operation by
operation, under either `NUMERICS` and for every kind of `C_LIGHT` (log 12). -/
def Obligations.RawDerivedFields : Prop :=
  ∀ s t : State, Decodable s.par s.pay → exec .rawT6 s = .next t →
    List.Forall₂ (DerivedFields s.par s.pay t.tr) ((blockOffsets s.pay).filter (givesRecord s.par s.pay)) t.store

/-- 43_raw_measurement.md R246, R252, R253, R255, R256, R258 to R260: under `EXACT` the derived fields are the
rationals of the formulas. -/
def Obligations.RawExactFields : Prop :=
  ∀ s t : State, s.par.numerics = .exact → Decodable s.par s.pay → exec .rawT6 s = .next t →
    ∃ q, t.tr = .exact q ∧
      List.Forall₂ (ExactFields s.par s.pay q) ((blockOffsets s.pay).filter (givesRecord s.par s.pay)) t.store

/-- 43_raw_measurement.md R245, R246, R249, 00_scope.md R15, R16: under either `NUMERICS` the receive time is the snap
of the greatest time of a GPS candidate, operation by operation; under `EXACT` that is the tick nearest to 0.08 s above
it (90_conflicts.md C7). -/
def Obligations.ReferenceTimeIsTheSnappedMaximum : Prop :=
  ∀ s t : State, Decodable s.par s.pay → exec .rawT6 s = .next t →
    (∃ o ∈ blockOffsets s.pay, gpsCandidate s.par s.pay o = true ∧
      (∀ o' ∈ blockOffsets s.pay, gpsCandidate s.par s.pay o' = true →
        (timeAt s.par s.pay o).lt (timeAt s.par s.pay o') = false) ∧
      t.tr = writtenSnap s.par.numerics s.par.roundMode (timeAt s.par s.pay o) ∧ t.trValid = true) ∧
    (s.par.numerics = .exact →
      ∃ (m : Rat) (n : Int),
        (∃ o ∈ blockOffsets s.pay, gpsCandidate s.par s.pay o = true ∧ exactTimeAt s.par s.pay o = m) ∧
        (∀ o ∈ blockOffsets s.pay, gpsCandidate s.par s.pay o = true → exactTimeAt s.par s.pay o ≤ m) ∧
        NearestTick s.par.roundMode m n ∧ t.tr = .exact (n / 10))

/-- 43_raw_measurement.md R262: the emitted records ascend by (rank, prn), records of one key keep their block
order, and `last` is 1 on the final one only. -/
def Obligations.RecordsAreEmittedSorted : Prop :=
  ∀ (s t : State) (os : List Obs), exec .rawT6 s = .next t → os ≠ [] → t.evq = s.evq ++ os.map Event.obs →
    os.Pairwise (fun a b => obsRank s.par a < obsRank s.par b ∨
      (obsRank s.par a = obsRank s.par b ∧ a.prn.toNat ≤ b.prn.toNat)) ∧
    (∀ (r : Nat) (p : BitVec 9),
      (os.map unmarked).filter (fun o => obsRank s.par o = r ∧ o.prn = p) =
        t.store.filter (fun o => obsRank s.par o = r ∧ o.prn = p)) ∧
    (∀ (k : Nat) (h : k < os.length), (os[k]).last = decide (k + 1 = os.length))

/-- 43_raw_measurement.md R263 at the default `BLK_LAYOUT`: how a partial last block at `o` fails. The failing
offset is reported where a u16 holds it (log 8). -/
def Obligations.PartialLastBlock : Prop :=
  ∀ (s : State) (k o : Nat), s.par.blk = defaultBlk → s.pay.length ≤ 65535 → o = 80 + 64 * k →
    o < s.pay.length → s.pay.length < o + 64 →
    (s.pay.length < o + 42 → exec .rawT6 s = .next (s.erred (shortErr s (o + 41) 1))) ∧
    (o + 42 ≤ s.pay.length → s.pay.length ≤ o + 56 → 4 ≤ qualityAt s.par s.pay o →
      ∃ v, (o + 56 < 65536 → v = BitVec.ofNat 16 (o + 56)) ∧
        exec .rawT6 s = .next (s.erred { shortErr s (o + 56) 1 with off := v })) ∧
    (s.pay.length = o + 57 → 4 ≤ qualityAt s.par s.pay o →
      (∃ o' ∈ blockOffsets s.pay, gpsCandidate s.par s.pay o' = true) →
      ∃ t, exec .rawT6 s = .next { s.erred (shortErr s (o + 57) 1) with tr := t })

/-- 00_scope.md R8, 43_raw_measurement.md R261: the store never holds more than `MAX_OBS` records. The reset state
holds no more, with any parameters; every step from a state of the invariant keeps that bound together with the bound
`LMAX` on the payload; and `RAW.T6` keeps it in any state whose payload has at most `LMAX` bytes. -/
def Obligations.StoreNeverOverflows : Prop :=
  (∀ par : Params, ({ State.reset with par := par } : State).pay.length ≤ lmax par ∧
    ({ State.reset with par := par } : State).store.length ≤ maxObs par) ∧
  (∀ s t : State, s.Inv → s.pay.length ≤ lmax s.par → s.store.length ≤ maxObs s.par → step s = .next t →
    t.pay.length ≤ lmax t.par ∧ t.store.length ≤ maxObs t.par) ∧
  (∀ s t : State, s.pay.length ≤ lmax s.par → s.store.length ≤ maxObs s.par → exec .rawT6 s = .next t →
    t.store.length ≤ maxObs s.par)

/-- 43_raw_measurement.md R265, 10_state.md R38: what a decoder emits depends on nothing but the message and the
parameters. -/
def Obligations.DecodersAreStateless : Prop :=
  ∀ (i : Instr) (s s' : State), i ∈ [.trkRaw, .trkNav, .rawT6, .navGps] →
    s'.par = s.par → s'.cls = s.cls → s'.id = s.id → s'.pay = s.pay →
    ∃ t t' E, exec i s = .next t ∧ exec i s' = .next t' ∧ t.evq = s.evq ++ E ∧ t'.evq = s'.evq ++ E

/-- 43_raw_measurement.md R253 under `EXACT`: one adjustment at most, the bounds themselves are not adjusted, and
whatever is within a week and a half of zero comes within half a week. -/
def Obligations.WeekWrapAdjustsOnce : Prop :=
  ∀ x : Rat, weekWrap .exact (.exact x) = .exact (weekWrapRat x) ∧
    (|x| ≤ 907200 → |weekWrapRat x| ≤ 302400) ∧ (|x| ≤ 302400 → weekWrapRat x = x)

/-- 43_raw_measurement.md R258, R259: exact under either `NUMERICS`. -/
def Obligations.DopplerAndSnrAreExact : Prop :=
  (∀ (m : Numerics) (rd : Int), -2 ^ 31 ≤ rd → rd < 2 ^ 31 → (dopplerOf m rd).val = ratVal (rd / 4096)) ∧
  (∀ (m : Numerics) (rs : Nat), rs < 65536 → (snrOf m rs).val = ratVal (rs / 256))

/-- 43_raw_measurement.md R256, R260, 93_implementation_defined.md I16: every raw phase and half-cycle flag whose `adr`
has the value 0, and the 0 of a quality below 6, are reported as minus zero under `BINARY64` and as 0 under `EXACT`;
the raw phases are 0 without the flag and `-2^31` with it. -/
def Obligations.ZeroPhaseIsNegativeZero : Prop :=
  (∀ (ra : Int) (h : Bool), -2 ^ 63 ≤ ra → ra < 2 ^ 63 →
    ((∃ neg, (adrOf .binary64 ra h).val = .fin neg 0) ↔ ra = if h then -2 ^ 31 else 0) ∧
    ((∃ neg, (adrOf .binary64 ra h).val = .fin neg 0) →
      Scalar.neg .binary64 (adrOf .binary64 ra h) = .bits 0x8000000000000000) ∧
    ((∃ neg, (adrOf .exact ra h).val = .fin neg 0) ↔ ra = if h then -2 ^ 31 else 0) ∧
    ((∃ neg, (adrOf .exact ra h).val = .fin neg 0) → Scalar.neg .exact (adrOf .exact ra h) = .exact 0)) ∧
  Scalar.neg .binary64 (Scalar.ofInt .binary64 0) = .bits 0x8000000000000000 ∧
  Scalar.neg .exact (Scalar.ofInt .exact 0) = .exact 0

/-- 00_scope.md R15 (IEEE 754 round-to-nearest-even, log 13): no finite binary64 word is nearer to a number than
the word it is rounded to, and of two words equally near the even one is taken. -/
def Obligations.RoundingIsToNearestEven : Prop :=
  ∀ q : Rat, q ≠ 0 → |q| < 2 ^ 1024 - 2 ^ 970 →
    ∃ p, wordVal (roundWord (decide (q < 0)) q) = .fin (decide (q < 0)) p ∧
      ∀ (w : BitVec 64) (neg : Bool) (p' : Rat), wordVal w = .fin neg p' →
        |p - q| ≤ |p' - q| ∧
        (|p - q| = |p' - q| → p' ≠ p → (roundWord (decide (q < 0)) q).getLsbD 0 = false)

/-- 00_scope.md R15 (log 13): the value of a finite word rounds to that word, so a number binary64 can hold is
kept. -/
def Obligations.RoundingKeepsEveryFiniteWord : Prop :=
  ∀ (w : BitVec 64) (neg : Bool) (q : Rat), wordVal w = .fin neg q → roundWord neg q = w

/-- 44_nav_subframe.md R301. -/
def Obligations.OtherConstellationsEmitNothing : Prop :=
  ∀ (s : State) (g : Byte), g ≠ 0 → decodeNav g = .navOther g ∧ exec (.navOther g) s = .next s

/-- 44_nav_subframe.md R302: the first word whose read fails is the one reported. -/
def Obligations.ShortNavPayloadNamesTheFirstMissingWord : Prop :=
  ∀ s : State, s.pay.length < 53 →
    ∃ i ≤ 9, s.pay.length < 13 + 4 * i + 4 ∧ (∀ j < i, 13 + 4 * j + 4 ≤ s.pay.length) ∧
      exec .navGps s = .next (s.erred (shortErr s (13 + 4 * i) 4))

/-- 44_nav_subframe.md R300, R303, R304, 30_encoding.md R110: the bit string is the ten data words, and the
subframe id it holds selects the operation. -/
def Obligations.NavGpsReassemblesAndSelects : Prop :=
  ∀ s : State, 53 ≤ s.pay.length → s.par.sf.sfid + 3 ≤ 240 →
    ∃ (F : BitVec 240) (u : State), (∀ i < 10, frmSum F (24 * i) 24 = dataAt s.pay i) ∧
      exec (decodeSubframe (BitVec.ofNat 3 (frmSum F s.par.sf.sfid 3))) { s with frm := F } = .next u ∧
      exec .navGps s = .next u

/-- 44_nav_subframe.md R307 to R314, under either `NUMERICS`. -/
def Obligations.Subframe1EmitsItsFields : Prop :=
  ∀ s : State, checkSf s.par.sf = true →
    ∃ f, Subframe1 s.par.sf s.frm f ∧
      exec .sf1 s = .next (s.with1 (.nav { sfid := 1, hasFields := true, fields := some f }))

/-- 44_nav_subframe.md R306. -/
def Obligations.Subframes2To5EmitTheIdOnly : Prop :=
  ∀ (s : State) (lo : BitVec 1),
    decodeSubframe (0b01#2 ++ lo) = .sf23 lo ∧ decodeSubframe (0b10#2 ++ lo) = .sf45 lo ∧
    exec (.sf23 lo) s = .next (s.with1 (.nav { sfid := 0b01#2 ++ lo, hasFields := false, fields := none })) ∧
    exec (.sf45 lo) s = .next (s.with1 (.nav { sfid := 0b10#2 ++ lo, hasFields := false, fields := none }))

/-- 44_nav_subframe.md R305, 60_exceptions.md R352. -/
def Obligations.BadSubframeIdIsReported : Prop :=
  ∀ (s : State) (x : BitVec 3), x = 0 ∨ x = 6 ∨ x = 7 →
    decodeSubframe x = .sfBad x ∧
    exec (.sfBad x) s =
      .next (s.erred { code := 2, cls := s.cls, id := s.id, off := 0, n := 0, sfid := x })

/-- 44_nav_subframe.md R315, 93_implementation_defined.md I5: the parity bits and the two top bits of the words,
and every payload byte outside them, have no effect on what is emitted. -/
def Obligations.NavIgnoresParityAndUnreadBytes : Prop :=
  ∀ (s : State) (P : List Byte), 53 ≤ s.pay.length → 53 ≤ P.length → (∀ i < 10, dataAt P i = dataAt s.pay i) →
    ∃ t, exec .navGps s = .next t ∧ exec .navGps { s with pay := P } = .next { t with pay := P }
end

