-- ==== Sys2Proof/Laws/Memory.lean ====
section
/-! SUPPORT. The basic laws of the buffer: a read after a write, the canonical form kept by every operation, and
what fetching a range gives. -/

namespace Sys2Proof.Machine

@[simp] theorem Memory.read_nil (a : Nat) : Memory.read [] a = none := rfl

/-- A read of the address just written gives the byte written. -/
@[simp] theorem Memory.read_write_same (m : Memory) (a : Nat) (b : Byte) : (m.write a b).read a = some b := by
  induction m with
  | nil => simp [Memory.write, Memory.read]
  | cons c rest ih =>
    obtain ⟨x, v⟩ := c
    simp only [Memory.write]
    split
    · simp [Memory.read]
    · split
      · simp [Memory.read]
      · rename_i hne
        simpa [Memory.read, hne] using ih

/-- A write leaves every other address alone. -/
theorem Memory.read_write_other (m : Memory) {a a' : Nat} (b : Byte) (h : a' ≠ a) :
    (m.write a b).read a' = m.read a' := by
  induction m with
  | nil => simp [Memory.write, Memory.read, Ne.symm h]
  | cons c rest ih =>
    obtain ⟨x, v⟩ := c
    simp only [Memory.write]
    split
    · simp [Memory.read, Ne.symm h]
    · split
      · rename_i hx
        subst hx
        simp [Memory.read, Ne.symm h]
      · simp [Memory.read, ih]

/-- A read after a write, at any address. -/
theorem Memory.read_write (m : Memory) (a a' : Nat) (b : Byte) :
    (m.write a b).read a' = if a' = a then some b else m.read a' := by
  split
  · subst_vars; simp
  · exact Memory.read_write_other m b ‹_›

/-- The addresses a write leaves listed: those listed before, and the one written. -/
theorem Memory.mem_write {m : Memory} {a : Nat} {b : Byte} {c : Host.Cell} (h : c ∈ m.write a b) :
    c = (a, b) ∨ c ∈ m := by
  induction m with
  | nil => simpa [Memory.write] using h
  | cons d rest ih =>
    obtain ⟨x, v⟩ := d
    simp only [Memory.write] at h
    split at h
    · simpa using h
    · split at h
      · rcases List.mem_cons.1 h with h | h
        · exact .inl h
        · exact .inr (List.mem_cons_of_mem _ h)
      · rcases List.mem_cons.1 h with h | h
        · exact .inr (h ▸ List.mem_cons_self)
        · rcases ih h with h | h
          · exact .inl h
          · exact .inr (List.mem_cons_of_mem _ h)

/-- A write keeps the canonical form. -/
theorem Memory.write_wf {m : Memory} (h : m.wf) (a : Nat) (b : Byte) : (m.write a b).wf := by
  induction m with
  | nil => simp [Memory.write, Memory.wf]
  | cons d rest ih =>
    obtain ⟨x, v⟩ := d
    obtain ⟨hx, hrest⟩ := List.pairwise_cons.1 h
    simp only [Memory.write]
    split
    · rename_i hlt
      refine List.pairwise_cons.2 ⟨fun c hc => ?_, h⟩
      rcases List.mem_cons.1 hc with rfl | hc
      · exact hlt
      · exact Nat.lt_trans hlt (hx c hc)
    · split
      · rename_i heq
        subst heq
        exact List.pairwise_cons.2 ⟨hx, hrest⟩
      · rename_i h1 h2
        refine List.pairwise_cons.2 ⟨fun c hc => ?_, ih hrest⟩
        rcases Memory.mem_write hc with rfl | hc
        · simp only
          omega
        · exact hx c hc

/-- The buffer of the reset state has the canonical form. -/
theorem Memory.reset_wf : State.reset.buf.wf := by decide

/-- A range is fetched exactly when every byte of it was written, and it gives those bytes in order. -/
theorem Memory.fetchRange_ok {m : Memory} {a n : Nat} {f : Nat → Byte}
    (h : ∀ k < n, m.read (a + k) = some (f k)) :
    m.fetchRange a n = .ok ((List.range n).map f) := by
  induction n generalizing a f with
  | zero => rfl
  | succ n ih =>
    have h0 : m.read a = some (f 0) := by simpa using h 0 (Nat.succ_pos n)
    have hs : m.fetchRange (a + 1) n = .ok ((List.range n).map (fun k => f (k + 1))) :=
      ih (fun k hk => by
        have := h (k + 1) (by omega)
        rwa [show a + (k + 1) = a + 1 + k by omega] at this)
    simp [Memory.fetchRange, Memory.fetch, h0, hs, List.range_succ_eq_map, Function.comp_def]

/-- What a fetched range says of the buffer. -/
theorem Memory.fetchRange_read {m : Memory} {a n : Nat} {bs : List Byte} (h : m.fetchRange a n = .ok bs) :
    bs.length = n ∧ ∀ k < n, m.read (a + k) = some (bs.getD k 0) := by
  induction n generalizing a bs with
  | zero =>
    simp [Memory.fetchRange] at h
    subst h
    simp
  | succ n ih =>
    simp only [Memory.fetchRange, Memory.fetch] at h
    cases h0 : m.read a with
    | none => simp [h0] at h
    | some b =>
      simp only [h0] at h
      cases h1 : m.fetchRange (a + 1) n with
      | error e => simp [h1] at h
      | ok tl =>
        simp only [h1, Except.ok.injEq] at h
        subst h
        obtain ⟨hl, hr⟩ := ih h1
        refine ⟨by simp [hl], fun k hk => ?_⟩
        cases k with
        | zero => simpa using h0
        | succ k =>
          have := hr k (by omega)
          rw [show a + (k + 1) = a + 1 + k by omega]
          simpa using this

end Sys2Proof.Machine
end

