-- ==== Sys2Proof/Laws/State.lean ====
section
/-! SUPPORT. One lemma per field per update of the state, each true by `rfl`, so that no proof unfolds a record
update; and each update as the record update it is. -/

namespace Sys2Proof.Machine

variable (s : State)

section
variable (v : SyncState) (c : BitVec 17)

@[simp] theorem State.setSync_par : (s.setSync v c).par = s.par := rfl
@[simp] theorem State.setSync_st : (s.setSync v c).st = v := rfl
@[simp] theorem State.setSync_cnt : (s.setSync v c).cnt = c := rfl
@[simp] theorem State.setSync_buf : (s.setSync v c).buf = s.buf := rfl
@[simp] theorem State.setSync_busy : (s.setSync v c).busy = s.busy := rfl
@[simp] theorem State.setSync_rst : (s.setSync v c).rst = s.rst := rfl
@[simp] theorem State.setSync_cls : (s.setSync v c).cls = s.cls := rfl
@[simp] theorem State.setSync_id : (s.setSync v c).id = s.id := rfl
@[simp] theorem State.setSync_pay : (s.setSync v c).pay = s.pay := rfl
@[simp] theorem State.setSync_frm : (s.setSync v c).frm = s.frm := rfl
@[simp] theorem State.setSync_tr : (s.setSync v c).tr = s.tr := rfl
@[simp] theorem State.setSync_trValid : (s.setSync v c).trValid = s.trValid := rfl
@[simp] theorem State.setSync_store : (s.setSync v c).store = s.store := rfl
@[simp] theorem State.setSync_rd : (s.setSync v c).rd = s.rd := rfl
@[simp] theorem State.setSync_evq : (s.setSync v c).evq = s.evq := rfl
@[simp] theorem State.setSync_op : (s.setSync v c).op = s.op := rfl
@[simp] theorem State.setSync_inq : (s.setSync v c).inq = s.inq := rfl
@[simp] theorem State.setSync_out : (s.setSync v c).out = s.out := rfl

end

section
variable (evs : List Event)

@[simp] theorem State.emit_par : (s.emit evs).par = s.par := rfl
@[simp] theorem State.emit_st : (s.emit evs).st = s.st := rfl
@[simp] theorem State.emit_cnt : (s.emit evs).cnt = s.cnt := rfl
@[simp] theorem State.emit_buf : (s.emit evs).buf = s.buf := rfl
@[simp] theorem State.emit_busy : (s.emit evs).busy = s.busy := rfl
@[simp] theorem State.emit_rst : (s.emit evs).rst = s.rst := rfl
@[simp] theorem State.emit_cls : (s.emit evs).cls = s.cls := rfl
@[simp] theorem State.emit_id : (s.emit evs).id = s.id := rfl
@[simp] theorem State.emit_pay : (s.emit evs).pay = s.pay := rfl
@[simp] theorem State.emit_frm : (s.emit evs).frm = s.frm := rfl
@[simp] theorem State.emit_tr : (s.emit evs).tr = s.tr := rfl
@[simp] theorem State.emit_trValid : (s.emit evs).trValid = s.trValid := rfl
@[simp] theorem State.emit_store : (s.emit evs).store = s.store := rfl
@[simp] theorem State.emit_rd : (s.emit evs).rd = s.rd := rfl
@[simp] theorem State.emit_evq : (s.emit evs).evq = s.evq ++ evs := rfl
@[simp] theorem State.emit_op : (s.emit evs).op = s.op := rfl
@[simp] theorem State.emit_inq : (s.emit evs).inq = s.inq := rfl
@[simp] theorem State.emit_out : (s.emit evs).out = s.out := rfl

end

section

@[simp] theorem State.deliver_par : (s.deliver).par = s.par := rfl
@[simp] theorem State.deliver_st : (s.deliver).st = s.st := rfl
@[simp] theorem State.deliver_cnt : (s.deliver).cnt = s.cnt := rfl
@[simp] theorem State.deliver_buf : (s.deliver).buf = s.buf := rfl
@[simp] theorem State.deliver_busy : (s.deliver).busy = s.busy := rfl
@[simp] theorem State.deliver_rst : (s.deliver).rst = s.rst := rfl
@[simp] theorem State.deliver_cls : (s.deliver).cls = s.cls := rfl
@[simp] theorem State.deliver_id : (s.deliver).id = s.id := rfl
@[simp] theorem State.deliver_pay : (s.deliver).pay = s.pay := rfl
@[simp] theorem State.deliver_frm : (s.deliver).frm = s.frm := rfl
@[simp] theorem State.deliver_tr : (s.deliver).tr = s.tr := rfl
@[simp] theorem State.deliver_trValid : (s.deliver).trValid = s.trValid := rfl
@[simp] theorem State.deliver_store : (s.deliver).store = s.store := rfl
@[simp] theorem State.deliver_rd : (s.deliver).rd = s.rd := rfl
@[simp] theorem State.deliver_evq : (s.deliver).evq = [] := rfl
@[simp] theorem State.deliver_op : (s.deliver).op = s.op := rfl
@[simp] theorem State.deliver_inq : (s.deliver).inq = s.inq := rfl
@[simp] theorem State.deliver_out : (s.deliver).out = s.out ++ s.evq := rfl

end

section
variable (c i : Byte) (p : List Byte)

@[simp] theorem State.beginMessage_par : (s.beginMessage c i p).par = s.par := rfl
@[simp] theorem State.beginMessage_st : (s.beginMessage c i p).st = s.st := rfl
@[simp] theorem State.beginMessage_cnt : (s.beginMessage c i p).cnt = s.cnt := rfl
@[simp] theorem State.beginMessage_buf : (s.beginMessage c i p).buf = s.buf := rfl
@[simp] theorem State.beginMessage_busy : (s.beginMessage c i p).busy = true := rfl
@[simp] theorem State.beginMessage_rst : (s.beginMessage c i p).rst = s.rst := rfl
@[simp] theorem State.beginMessage_cls : (s.beginMessage c i p).cls = c := rfl
@[simp] theorem State.beginMessage_id : (s.beginMessage c i p).id = i := rfl
@[simp] theorem State.beginMessage_pay : (s.beginMessage c i p).pay = p := rfl
@[simp] theorem State.beginMessage_frm : (s.beginMessage c i p).frm = s.frm := rfl
@[simp] theorem State.beginMessage_tr : (s.beginMessage c i p).tr = s.tr := rfl
@[simp] theorem State.beginMessage_trValid : (s.beginMessage c i p).trValid = false := rfl
@[simp] theorem State.beginMessage_store : (s.beginMessage c i p).store = [] := rfl
@[simp] theorem State.beginMessage_rd : (s.beginMessage c i p).rd = s.rd := rfl
@[simp] theorem State.beginMessage_evq : (s.beginMessage c i p).evq = s.evq := rfl
@[simp] theorem State.beginMessage_op : (s.beginMessage c i p).op = s.op := rfl
@[simp] theorem State.beginMessage_inq : (s.beginMessage c i p).inq = s.inq := rfl
@[simp] theorem State.beginMessage_out : (s.beginMessage c i p).out = s.out := rfl

end

section

@[simp] theorem State.endMessage_par : (s.endMessage).par = s.par := rfl
@[simp] theorem State.endMessage_st : (s.endMessage).st = s.st := rfl
@[simp] theorem State.endMessage_cnt : (s.endMessage).cnt = s.cnt := rfl
@[simp] theorem State.endMessage_buf : (s.endMessage).buf = s.buf := rfl
@[simp] theorem State.endMessage_busy : (s.endMessage).busy = false := rfl
@[simp] theorem State.endMessage_rst : (s.endMessage).rst = s.rst := rfl
@[simp] theorem State.endMessage_cls : (s.endMessage).cls = s.cls := rfl
@[simp] theorem State.endMessage_id : (s.endMessage).id = s.id := rfl
@[simp] theorem State.endMessage_pay : (s.endMessage).pay = s.pay := rfl
@[simp] theorem State.endMessage_frm : (s.endMessage).frm = s.frm := rfl
@[simp] theorem State.endMessage_tr : (s.endMessage).tr = s.tr := rfl
@[simp] theorem State.endMessage_trValid : (s.endMessage).trValid = s.trValid := rfl
@[simp] theorem State.endMessage_store : (s.endMessage).store = s.store := rfl
@[simp] theorem State.endMessage_rd : (s.endMessage).rd = s.rd := rfl
@[simp] theorem State.endMessage_evq : (s.endMessage).evq = s.evq := rfl
@[simp] theorem State.endMessage_op : (s.endMessage).op = s.op := rfl
@[simp] theorem State.endMessage_inq : (s.endMessage).inq = s.inq := rfl
@[simp] theorem State.endMessage_out : (s.endMessage).out = s.out := rfl

end

section
variable (v : BitVec 240)

@[simp] theorem State.setFrm_par : (s.setFrm v).par = s.par := rfl
@[simp] theorem State.setFrm_st : (s.setFrm v).st = s.st := rfl
@[simp] theorem State.setFrm_cnt : (s.setFrm v).cnt = s.cnt := rfl
@[simp] theorem State.setFrm_buf : (s.setFrm v).buf = s.buf := rfl
@[simp] theorem State.setFrm_busy : (s.setFrm v).busy = s.busy := rfl
@[simp] theorem State.setFrm_rst : (s.setFrm v).rst = s.rst := rfl
@[simp] theorem State.setFrm_cls : (s.setFrm v).cls = s.cls := rfl
@[simp] theorem State.setFrm_id : (s.setFrm v).id = s.id := rfl
@[simp] theorem State.setFrm_pay : (s.setFrm v).pay = s.pay := rfl
@[simp] theorem State.setFrm_frm : (s.setFrm v).frm = v := rfl
@[simp] theorem State.setFrm_tr : (s.setFrm v).tr = s.tr := rfl
@[simp] theorem State.setFrm_trValid : (s.setFrm v).trValid = s.trValid := rfl
@[simp] theorem State.setFrm_store : (s.setFrm v).store = s.store := rfl
@[simp] theorem State.setFrm_rd : (s.setFrm v).rd = s.rd := rfl
@[simp] theorem State.setFrm_evq : (s.setFrm v).evq = s.evq := rfl
@[simp] theorem State.setFrm_op : (s.setFrm v).op = s.op := rfl
@[simp] theorem State.setFrm_inq : (s.setFrm v).inq = s.inq := rfl
@[simp] theorem State.setFrm_out : (s.setFrm v).out = s.out := rfl

end

section
variable (v : Scalar)

@[simp] theorem State.setTr_par : (s.setTr v).par = s.par := rfl
@[simp] theorem State.setTr_st : (s.setTr v).st = s.st := rfl
@[simp] theorem State.setTr_cnt : (s.setTr v).cnt = s.cnt := rfl
@[simp] theorem State.setTr_buf : (s.setTr v).buf = s.buf := rfl
@[simp] theorem State.setTr_busy : (s.setTr v).busy = s.busy := rfl
@[simp] theorem State.setTr_rst : (s.setTr v).rst = s.rst := rfl
@[simp] theorem State.setTr_cls : (s.setTr v).cls = s.cls := rfl
@[simp] theorem State.setTr_id : (s.setTr v).id = s.id := rfl
@[simp] theorem State.setTr_pay : (s.setTr v).pay = s.pay := rfl
@[simp] theorem State.setTr_frm : (s.setTr v).frm = s.frm := rfl
@[simp] theorem State.setTr_tr : (s.setTr v).tr = v := rfl
@[simp] theorem State.setTr_trValid : (s.setTr v).trValid = true := rfl
@[simp] theorem State.setTr_store : (s.setTr v).store = s.store := rfl
@[simp] theorem State.setTr_rd : (s.setTr v).rd = s.rd := rfl
@[simp] theorem State.setTr_evq : (s.setTr v).evq = s.evq := rfl
@[simp] theorem State.setTr_op : (s.setTr v).op = s.op := rfl
@[simp] theorem State.setTr_inq : (s.setTr v).inq = s.inq := rfl
@[simp] theorem State.setTr_out : (s.setTr v).out = s.out := rfl

end

section
variable (os : List Obs)

@[simp] theorem State.setStore_par : (s.setStore os).par = s.par := rfl
@[simp] theorem State.setStore_st : (s.setStore os).st = s.st := rfl
@[simp] theorem State.setStore_cnt : (s.setStore os).cnt = s.cnt := rfl
@[simp] theorem State.setStore_buf : (s.setStore os).buf = s.buf := rfl
@[simp] theorem State.setStore_busy : (s.setStore os).busy = s.busy := rfl
@[simp] theorem State.setStore_rst : (s.setStore os).rst = s.rst := rfl
@[simp] theorem State.setStore_cls : (s.setStore os).cls = s.cls := rfl
@[simp] theorem State.setStore_id : (s.setStore os).id = s.id := rfl
@[simp] theorem State.setStore_pay : (s.setStore os).pay = s.pay := rfl
@[simp] theorem State.setStore_frm : (s.setStore os).frm = s.frm := rfl
@[simp] theorem State.setStore_tr : (s.setStore os).tr = s.tr := rfl
@[simp] theorem State.setStore_trValid : (s.setStore os).trValid = s.trValid := rfl
@[simp] theorem State.setStore_store : (s.setStore os).store = os := rfl
@[simp] theorem State.setStore_rd : (s.setStore os).rd = s.rd := rfl
@[simp] theorem State.setStore_evq : (s.setStore os).evq = s.evq := rfl
@[simp] theorem State.setStore_op : (s.setStore os).op = s.op := rfl
@[simp] theorem State.setStore_inq : (s.setStore os).inq = s.inq := rfl
@[simp] theorem State.setStore_out : (s.setStore os).out = s.out := rfl

end

section
variable (v : Int)

@[simp] theorem State.setRd_par : (s.setRd v).par = s.par := rfl
@[simp] theorem State.setRd_st : (s.setRd v).st = s.st := rfl
@[simp] theorem State.setRd_cnt : (s.setRd v).cnt = s.cnt := rfl
@[simp] theorem State.setRd_buf : (s.setRd v).buf = s.buf := rfl
@[simp] theorem State.setRd_busy : (s.setRd v).busy = s.busy := rfl
@[simp] theorem State.setRd_rst : (s.setRd v).rst = s.rst := rfl
@[simp] theorem State.setRd_cls : (s.setRd v).cls = s.cls := rfl
@[simp] theorem State.setRd_id : (s.setRd v).id = s.id := rfl
@[simp] theorem State.setRd_pay : (s.setRd v).pay = s.pay := rfl
@[simp] theorem State.setRd_frm : (s.setRd v).frm = s.frm := rfl
@[simp] theorem State.setRd_tr : (s.setRd v).tr = s.tr := rfl
@[simp] theorem State.setRd_trValid : (s.setRd v).trValid = s.trValid := rfl
@[simp] theorem State.setRd_store : (s.setRd v).store = s.store := rfl
@[simp] theorem State.setRd_rd : (s.setRd v).rd = v := rfl
@[simp] theorem State.setRd_evq : (s.setRd v).evq = s.evq := rfl
@[simp] theorem State.setRd_op : (s.setRd v).op = s.op := rfl
@[simp] theorem State.setRd_inq : (s.setRd v).inq = s.inq := rfl
@[simp] theorem State.setRd_out : (s.setRd v).out = s.out := rfl

end

section

@[simp] theorem State.dropWork_par : (s.dropWork).par = s.par := rfl
@[simp] theorem State.dropWork_st : (s.dropWork).st = s.st := rfl
@[simp] theorem State.dropWork_cnt : (s.dropWork).cnt = s.cnt := rfl
@[simp] theorem State.dropWork_buf : (s.dropWork).buf = s.buf := rfl
@[simp] theorem State.dropWork_busy : (s.dropWork).busy = s.busy := rfl
@[simp] theorem State.dropWork_rst : (s.dropWork).rst = s.rst := rfl
@[simp] theorem State.dropWork_cls : (s.dropWork).cls = s.cls := rfl
@[simp] theorem State.dropWork_id : (s.dropWork).id = s.id := rfl
@[simp] theorem State.dropWork_pay : (s.dropWork).pay = s.pay := rfl
@[simp] theorem State.dropWork_frm : (s.dropWork).frm = s.frm := rfl
@[simp] theorem State.dropWork_tr : (s.dropWork).tr = s.tr := rfl
@[simp] theorem State.dropWork_trValid : (s.dropWork).trValid = false := rfl
@[simp] theorem State.dropWork_store : (s.dropWork).store = [] := rfl
@[simp] theorem State.dropWork_rd : (s.dropWork).rd = s.rd := rfl
@[simp] theorem State.dropWork_evq : (s.dropWork).evq = s.evq := rfl
@[simp] theorem State.dropWork_op : (s.dropWork).op = s.op := rfl
@[simp] theorem State.dropWork_inq : (s.dropWork).inq = s.inq := rfl
@[simp] theorem State.dropWork_out : (s.dropWork).out = s.out := rfl

end

section
variable (e : Exc)

@[simp] theorem State.raise_par : (s.raise e).par = s.par := rfl
@[simp] theorem State.raise_st : (s.raise e).st = s.st := rfl
@[simp] theorem State.raise_cnt : (s.raise e).cnt = s.cnt := rfl
@[simp] theorem State.raise_buf : (s.raise e).buf = s.buf := rfl
@[simp] theorem State.raise_busy : (s.raise e).busy = s.busy := rfl
@[simp] theorem State.raise_rst : (s.raise e).rst = s.rst := rfl
@[simp] theorem State.raise_cls : (s.raise e).cls = s.cls := rfl
@[simp] theorem State.raise_id : (s.raise e).id = s.id := rfl
@[simp] theorem State.raise_pay : (s.raise e).pay = s.pay := rfl
@[simp] theorem State.raise_frm : (s.raise e).frm = s.frm := rfl
@[simp] theorem State.raise_tr : (s.raise e).tr = s.tr := rfl
@[simp] theorem State.raise_trValid : (s.raise e).trValid = false := rfl
@[simp] theorem State.raise_store : (s.raise e).store = [] := rfl
@[simp] theorem State.raise_rd : (s.raise e).rd = s.rd := rfl
@[simp] theorem State.raise_evq : (s.raise e).evq = s.evq ++ [.err (errRec s.cls s.id s.pay e)] := rfl
@[simp] theorem State.raise_op : (s.raise e).op = s.op := rfl
@[simp] theorem State.raise_inq : (s.raise e).inq = s.inq := rfl
@[simp] theorem State.raise_out : (s.raise e).out = s.out := rfl

end

section
variable (is : List Input)

@[simp] theorem State.setInq_par : (s.setInq is).par = s.par := rfl
@[simp] theorem State.setInq_st : (s.setInq is).st = s.st := rfl
@[simp] theorem State.setInq_cnt : (s.setInq is).cnt = s.cnt := rfl
@[simp] theorem State.setInq_buf : (s.setInq is).buf = s.buf := rfl
@[simp] theorem State.setInq_busy : (s.setInq is).busy = s.busy := rfl
@[simp] theorem State.setInq_rst : (s.setInq is).rst = s.rst := rfl
@[simp] theorem State.setInq_cls : (s.setInq is).cls = s.cls := rfl
@[simp] theorem State.setInq_id : (s.setInq is).id = s.id := rfl
@[simp] theorem State.setInq_pay : (s.setInq is).pay = s.pay := rfl
@[simp] theorem State.setInq_frm : (s.setInq is).frm = s.frm := rfl
@[simp] theorem State.setInq_tr : (s.setInq is).tr = s.tr := rfl
@[simp] theorem State.setInq_trValid : (s.setInq is).trValid = s.trValid := rfl
@[simp] theorem State.setInq_store : (s.setInq is).store = s.store := rfl
@[simp] theorem State.setInq_rd : (s.setInq is).rd = s.rd := rfl
@[simp] theorem State.setInq_evq : (s.setInq is).evq = s.evq := rfl
@[simp] theorem State.setInq_op : (s.setInq is).op = s.op := rfl
@[simp] theorem State.setInq_inq : (s.setInq is).inq = is := rfl
@[simp] theorem State.setInq_out : (s.setInq is).out = s.out := rfl

end

section

@[simp] theorem State.clearOp_par : (s.clearOp).par = s.par := rfl
@[simp] theorem State.clearOp_st : (s.clearOp).st = s.st := rfl
@[simp] theorem State.clearOp_cnt : (s.clearOp).cnt = s.cnt := rfl
@[simp] theorem State.clearOp_buf : (s.clearOp).buf = s.buf := rfl
@[simp] theorem State.clearOp_busy : (s.clearOp).busy = s.busy := rfl
@[simp] theorem State.clearOp_rst : (s.clearOp).rst = s.rst := rfl
@[simp] theorem State.clearOp_cls : (s.clearOp).cls = s.cls := rfl
@[simp] theorem State.clearOp_id : (s.clearOp).id = s.id := rfl
@[simp] theorem State.clearOp_pay : (s.clearOp).pay = s.pay := rfl
@[simp] theorem State.clearOp_frm : (s.clearOp).frm = s.frm := rfl
@[simp] theorem State.clearOp_tr : (s.clearOp).tr = s.tr := rfl
@[simp] theorem State.clearOp_trValid : (s.clearOp).trValid = s.trValid := rfl
@[simp] theorem State.clearOp_store : (s.clearOp).store = s.store := rfl
@[simp] theorem State.clearOp_rd : (s.clearOp).rd = s.rd := rfl
@[simp] theorem State.clearOp_evq : (s.clearOp).evq = s.evq := rfl
@[simp] theorem State.clearOp_op : (s.clearOp).op = none := rfl
@[simp] theorem State.clearOp_inq : (s.clearOp).inq = s.inq := rfl
@[simp] theorem State.clearOp_out : (s.clearOp).out = s.out := rfl

end

section
variable (l : Bool)

@[simp] theorem State.afterReset_par : (s.afterReset l).par = s.par := rfl
@[simp] theorem State.afterReset_st : (s.afterReset l).st = .idle := rfl
@[simp] theorem State.afterReset_cnt : (s.afterReset l).cnt = 0 := rfl
@[simp] theorem State.afterReset_buf : (s.afterReset l).buf = [] := rfl
@[simp] theorem State.afterReset_busy : (s.afterReset l).busy = false := rfl
@[simp] theorem State.afterReset_rst : (s.afterReset l).rst = l := rfl
@[simp] theorem State.afterReset_cls : (s.afterReset l).cls = 0 := rfl
@[simp] theorem State.afterReset_id : (s.afterReset l).id = 0 := rfl
@[simp] theorem State.afterReset_pay : (s.afterReset l).pay = [] := rfl
@[simp] theorem State.afterReset_frm : (s.afterReset l).frm = 0 := rfl
@[simp] theorem State.afterReset_tr : (s.afterReset l).tr = .bits 0 := rfl
@[simp] theorem State.afterReset_trValid : (s.afterReset l).trValid = false := rfl
@[simp] theorem State.afterReset_store : (s.afterReset l).store = [] := rfl
@[simp] theorem State.afterReset_rd : (s.afterReset l).rd = 0 := rfl
@[simp] theorem State.afterReset_evq : (s.afterReset l).evq = [] := rfl
@[simp] theorem State.afterReset_op : (s.afterReset l).op = none := rfl
@[simp] theorem State.afterReset_inq : (s.afterReset l).inq = s.inq := rfl
@[simp] theorem State.afterReset_out : (s.afterReset l).out = s.out := rfl

end

end Sys2Proof.Machine
end

