-- ==== Sys2Proof/Laws/Ops.lean ====
section
/-! SUPPORT. One lemma for each shared operation that says everything it can do: reads of a payload, values of
bytes, writes of the buffer, taking an exception, outcomes. -/

namespace Sys2Proof.Machine

theorem onNext_eq_next {f : State → State} {o : Host.Outcome State Fault Refusal} {t : State} :
    onNext f o = .next t ↔ ∃ u, o = .next u ∧ f u = t := by
  cases o <;> simp [onNext]

theorem onNext_eq_fault {f : State → State} {o : Host.Outcome State Fault Refusal} {r : Fault} :
    onNext f o = .fault r ↔ o = .fault r := by
  cases o <;> simp [onNext]

theorem onNext_eq_refused {f : State → State} {o : Host.Outcome State Fault Refusal} {r : Refusal} :
    onNext f o = .refused r ↔ o = .refused r := by
  cases o <;> simp [onNext]

@[simp] theorem onNext_next (f : State → State) (u : State) : onNext f (.next u) = .next (f u) := rfl

/-- A read inside the payload. -/
theorem memRead_ok {P : List Byte} {off n : Nat} (h : off + n ≤ P.length) :
    memRead P off n = .ok (leNat ((P.drop off).take n)) := by
  simp [memRead, Nat.not_lt.2 h]

/-- A read that leaves the payload. -/
theorem memRead_short {P : List Byte} {off n : Nat} (h : P.length < off + n) :
    memRead P off n = .error (.shortPayload off n) := by
  simp [memRead, h]

theorem memRead_eq_ok {P : List Byte} {off n v : Nat} :
    memRead P off n = .ok v ↔ off + n ≤ P.length ∧ v = leNat ((P.drop off).take n) := by
  rcases Nat.lt_or_ge P.length (off + n) with h | h
  · simp [memRead_short h]; omega
  · simp [memRead_ok h, h, eq_comm]

theorem memRead_eq_error {P : List Byte} {off n : Nat} {e : Exc} :
    memRead P off n = .error e ↔ P.length < off + n ∧ e = .shortPayload off n := by
  rcases Nat.lt_or_ge P.length (off + n) with h | h
  · simp [memRead_short h, h, eq_comm]
  · simp [memRead_ok h]; omega

@[simp] theorem leNat_nil : leNat [] = 0 := rfl

@[simp] theorem leNat_cons (b : Byte) (bs : List Byte) : leNat (b :: bs) = b.toNat + 256 * leNat bs := rfl

theorem leNat_lt (bs : List Byte) : leNat bs < 256 ^ bs.length := by
  induction bs with
  | nil => simp
  | cons b bs ih =>
    have := b.isLt
    simp only [leNat_cons, List.length_cons, Nat.pow_succ]
    omega

theorem leNat_append (bs cs : List Byte) : leNat (bs ++ cs) = leNat bs + 256 ^ bs.length * leNat cs := by
  induction bs with
  | nil => simp
  | cons b bs ih =>
    simp only [List.cons_append, leNat_cons, ih, List.length_cons, Nat.pow_succ]
    ring

/-- The value a read can give. -/
theorem memRead_lt {P : List Byte} {off n v : Nat} (h : memRead P off n = .ok v) : v < 256 ^ n := by
  obtain ⟨hl, rfl⟩ := memRead_eq_ok.1 h
  have := leNat_lt ((P.drop off).take n)
  rwa [List.length_take, List.length_drop, Nat.min_eq_left (by omega)] at this

theorem sext_of_lt {N v : Nat} (h : v < 2 ^ (N - 1)) (hN : 0 < N) : sext N v = v := by
  have : 2 ^ N = 2 * 2 ^ (N - 1) := by rw [← Nat.pow_succ']; congr 1; omega
  simp only [sext, Nat.mod_eq_of_lt (show v < 2 ^ N by omega), Nat.not_le.2 h, if_false]

theorem sext_of_ge {N v : Nat} (h : 2 ^ (N - 1) ≤ v) (hv : v < 2 ^ N) : sext N v = (v : Int) - 2 ^ N := by
  simp only [sext, Nat.mod_eq_of_lt hv, h, if_true]

theorem bfU_of_range {frm : BitVec 240} {a n : Nat} (h : bfInRange a n = true) :
    bfU frm a n = (bitField frm a n : Int) := by simp [bfU, h]

theorem bfS_of_range {frm : BitVec 240} {a n : Nat} (h : bfInRange a n = true) :
    bfS frm a n = sext n (bitField frm a n) := by simp [bfS, h]

/-- Everything a per-item decoder over a list can do: it gives the items' values in order, or the exception of
the first item that has one. -/
theorem collect_ok {α : Type} {f : Nat → Except Exc (Option α)} {os : List Nat} {xs : List α} :
    collect f os = .ok xs ↔ ∃ ys, List.Forall₂ (fun o y => f o = .ok y) os ys ∧ xs = ys.reduceOption := by
  induction os generalizing xs with
  | nil => simp [collect, eq_comm]
  | cons o os ih =>
    constructor
    · intro h
      simp only [collect] at h
      cases ho : f o with
      | error e => simp [ho] at h
      | ok y =>
        cases y with
        | none =>
          simp only [ho] at h
          obtain ⟨ys, hy, rfl⟩ := ih.1 h
          exact ⟨none :: ys, .cons ho hy, rfl⟩
        | some x =>
          simp only [ho] at h
          cases hc : collect f os with
          | error e => simp [hc] at h
          | ok tl =>
            simp only [hc, Except.ok.injEq] at h
            obtain ⟨ys, hy, rfl⟩ := ih.1 hc
            exact ⟨some x :: ys, .cons ho hy, h.symm⟩
    · rintro ⟨ys, hy, rfl⟩
      cases hy with
      | cons ho hy =>
        rename_i y ys
        have hc := ih.2 ⟨ys, hy, rfl⟩
        cases y <;> simp [collect, ho, hc]

/-- No more values than items. -/
theorem collect_length_le {α : Type} {f : Nat → Except Exc (Option α)} {os : List Nat} {xs : List α}
    (h : collect f os = .ok xs) : xs.length ≤ os.length := by
  obtain ⟨ys, hy, rfl⟩ := collect_ok.1 h
  exact (List.reduceOption_length_le ys).trans hy.length_eq.ge

/-- The exception of the first item that has one. -/
theorem collect_error {α : Type} {f : Nat → Except Exc (Option α)} {os : List Nat} {e : Exc} :
    collect f os = .error e ↔
      ∃ pre o post, os = pre ++ o :: post ∧ (∀ x ∈ pre, ∃ y, f x = .ok y) ∧ f o = .error e := by
  induction os with
  | nil => simp [collect]
  | cons o os ih =>
    constructor
    · intro h
      simp only [collect] at h
      cases ho : f o with
      | error e' =>
        simp only [ho, Except.error.injEq] at h
        exact ⟨[], o, os, rfl, by simp, h ▸ ho⟩
      | ok y =>
        have hc : collect f os = .error e := by
          cases y with
          | none => simpa [ho] using h
          | some x =>
            simp only [ho] at h
            cases hc : collect f os with
            | error e' => simpa [hc] using h
            | ok tl => simp [hc] at h
        obtain ⟨pre, o', post, rfl, hp, he⟩ := ih.1 hc
        refine ⟨o :: pre, o', post, rfl, ?_, he⟩
        simp only [List.mem_cons, forall_eq_or_imp]
        exact ⟨⟨y, ho⟩, hp⟩
    · rintro ⟨pre, o', post, heq, hp, he⟩
      cases pre with
      | nil =>
        obtain ⟨rfl, rfl⟩ := List.cons.inj heq
        simp [collect, he]
      | cons x pre =>
        rw [List.cons_append, List.cons.injEq] at heq
        obtain ⟨rfl, rfl⟩ := heq
        obtain ⟨y, hy⟩ := hp o List.mem_cons_self
        have hc := ih.2 ⟨pre, o', post, rfl, fun z hz => hp z (List.mem_cons_of_mem _ hz), he⟩
        cases y <;> simp [collect, hy, hc]

/-- Everything a write of the buffer can do. -/
theorem memWrite_ok {s t : State} {a : Nat} {b : Byte} :
    s.memWrite a b = .ok t ↔ a < s.par.bufCap ∧ t = { s with buf := s.buf.write a b } := by
  unfold State.memWrite
  split <;> simp_all [eq_comm]

theorem memWrite_error {s : State} {a : Nat} {b : Byte} {e : Fault} :
    s.memWrite a b = .error e ↔ s.par.bufCap ≤ a ∧ e = .noSuchAddress a := by
  unfold State.memWrite
  split <;> simp_all [eq_comm]

/-- Taking an exception drops the working state and emits one `ERR`. -/
theorem State.raise_eq (s : State) (e : Exc) :
    s.raise e = { s with trValid := false, store := [], evq := s.evq ++ [.err (errRec s.cls s.id s.pay e)] } := rfl

theorem errOff_of_lt {P : List Byte} {off : Nat} (h : off < 65536) : errOff P off = BitVec.ofNat 16 off := by
  simp [errOff, h]

/-- Two checksum loops in a row. -/
theorem fletcherFrom_append (ca cb : Byte) (xs ys : List Byte) :
    fletcherFrom ca cb (xs ++ ys) = fletcherFrom (fletcherFrom ca cb xs).1 (fletcherFrom ca cb xs).2 ys := by
  induction xs generalizing ca cb with
  | nil => rfl
  | cons x xs ih => exact ih _ _

/-- `last` is the only field that marking the final record touches. -/
theorem markLast_length (os : List Obs) : (markLast os).length = os.length := by
  induction os with
  | nil => rfl
  | cons o os ih =>
    cases os with
    | nil => rfl
    | cons o' os => simpa [markLast] using ih

/-- The next move of the reset input is taken, and the moves before it keep their places. -/
theorem takeRst_eq_some {is rest : List Input} {level : Bool} :
    takeRst is = some (level, rest) ↔
      ∃ pre post, is = pre ++ .rst level :: post ∧ rest = pre ++ post ∧ ∀ l, Input.rst l ∉ pre := by
  induction is generalizing rest with
  | nil => simp [takeRst]
  | cons i is ih =>
    constructor
    · intro h
      cases i with
      | rst l =>
        simp only [takeRst, Option.some.injEq, Prod.mk.injEq] at h
        obtain ⟨rfl, rfl⟩ := h
        exact ⟨[], is, rfl, rfl, by simp⟩
      | byte b =>
        simp only [takeRst] at h
        cases ht : takeRst is with
        | none => simp [ht] at h
        | some p =>
          obtain ⟨l, r⟩ := p
          simp only [ht, Option.some.injEq, Prod.mk.injEq] at h
          obtain ⟨rfl, rfl⟩ := h
          obtain ⟨pre, post, rfl, rfl, hp⟩ := ih.1 ht
          exact ⟨.byte b :: pre, post, rfl, rfl, by simpa using hp⟩
      | byteRst b k =>
        simp only [takeRst] at h
        cases ht : takeRst is with
        | none => simp [ht] at h
        | some p =>
          obtain ⟨l, r⟩ := p
          simp only [ht, Option.some.injEq, Prod.mk.injEq] at h
          obtain ⟨rfl, rfl⟩ := h
          obtain ⟨pre, post, rfl, rfl, hp⟩ := ih.1 ht
          exact ⟨.byteRst b k :: pre, post, rfl, rfl, by simpa using hp⟩
    · rintro ⟨pre, post, heq, rfl, hp⟩
      cases pre with
      | nil =>
        obtain ⟨rfl, rfl⟩ := List.cons.inj heq
        rfl
      | cons x pre =>
        rw [List.cons_append, List.cons.injEq] at heq
        obtain ⟨rfl, rfl⟩ := heq
        have ht := ih.2 ⟨pre, post, rfl, rfl, fun l hl => hp l (List.mem_cons_of_mem _ hl)⟩
        cases i with
        | rst l => exact absurd List.mem_cons_self (hp l)
        | byte b => simp [takeRst, ht]
        | byteRst b k => simp [takeRst, ht]

theorem takeRst_eq_none {is : List Input} : takeRst is = none ↔ ∀ l, Input.rst l ∉ is := by
  induction is with
  | nil => simp [takeRst]
  | cons i is ih =>
    cases i with
    | rst l => simp only [takeRst, reduceCtorEq, false_iff, not_forall, not_not]; exact ⟨l, List.mem_cons_self⟩
    | byte b =>
      cases ht : takeRst is with
      | none => simpa [takeRst, ht] using ih.1 ht
      | some p => simpa [takeRst, ht] using (not_congr ih).1 (by simp [ht])
    | byteRst b k =>
      cases ht : takeRst is with
      | none => simpa [takeRst, ht] using ih.1 ht
      | some p => simpa [takeRst, ht] using (not_congr ih).1 (by simp [ht])

end Sys2Proof.Machine
end

