-- ==== Sys2Proof/Laws/PerInstr.lean ====
section
/-! SUPPORT. The family `EncodeMatchesRow`: by the rule of 30_encoding.md R122 (the rows of a level in table
order, the first match wins) the key of a well-formed operation selects the operation's own row of
spec/opcode_table.json. -/

namespace Sys2Proof.Laws

/-- The level of a key and its value as the table's masks see it. A reader's operand wires have no bits there. -/
def keyLevelValue : Key → Level × Nat
  | .byte k => (.byte, k.toNat)
  | .inner (.frame opc) => (.frame, opc.toNat)
  | .inner (.raw t) => (.raw, t.toNat)
  | .inner (.nav g) => (.nav, g.toNat)
  | .inner (.subframe x) => (.subframe, x.toNat)
  | .inner (.reader r _ _ _) => (.reader, r.toNat)

/-- The place in the table of the first row of a level that a value matches. -/
def firstRow (p : Level × Nat) : Nat := tableRows.findIdx (fun r => r.level = p.1 ∧ p.2 &&& r.mask = r.pat)

/-- The place of an operation's row in spec/opcode_table.json. -/
def rowPlace : Instr → Nat
  | .syncIdleHit => 0
  | .syncIdleMiss _ => 1
  | .syncSeen1Hit => 2
  | .syncSeen1Miss _ => 3
  | .syncAccAppend _ => 4
  | .trkRaw => 5
  | .trkNav => 6
  | .ignore _ _ => 7
  | .rawT6 => 8
  | .rawOther _ => 9
  | .navGps => 10
  | .navOther _ => 11
  | .sf1 => 12
  | .sf23 _ => 13
  | .sf45 _ => 14
  | .sfBad _ => 15
  | .rdU8 _ => 16
  | .rdU16 _ => 17
  | .rdU32 _ => 18
  | .rdI32 _ => 19
  | .rdI64 _ => 20
  | .bfU _ _ => 21
  | .bfS _ _ => 22

/-- The key of the operation, where well formed, selects the operation's own row. -/
def EncodeMatchesRow.Statement (i : Instr) : Prop :=
  i.wf = true → firstRow (keyLevelValue (encode i)) = rowPlace i

theorem EncodeMatchesRow.syncIdleHit : EncodeMatchesRow.Statement .syncIdleHit := fun _ => by decide

theorem EncodeMatchesRow.syncIdleMiss (b : Byte) : EncodeMatchesRow.Statement (.syncIdleMiss b) := by
  revert b; unfold EncodeMatchesRow.Statement; decide

theorem EncodeMatchesRow.syncSeen1Hit : EncodeMatchesRow.Statement .syncSeen1Hit := fun _ => by decide

theorem EncodeMatchesRow.syncSeen1Miss (b : Byte) : EncodeMatchesRow.Statement (.syncSeen1Miss b) := by
  revert b; unfold EncodeMatchesRow.Statement; decide

theorem EncodeMatchesRow.syncAccAppend (b : Byte) : EncodeMatchesRow.Statement (.syncAccAppend b) := by
  revert b; unfold EncodeMatchesRow.Statement; decide

theorem EncodeMatchesRow.trkRaw : EncodeMatchesRow.Statement .trkRaw := fun _ => by decide

theorem EncodeMatchesRow.trkNav : EncodeMatchesRow.Statement .trkNav := fun _ => by decide

/-- The value of a pair's key. -/
theorem pairKey_toNat (c i : Byte) : (c ++ i : BitVec 16).toNat = c.toNat * 256 + i.toNat := by
  rw [BitVec.toNat_append, Nat.shiftLeft_eq, Nat.mul_comm]
  have := Nat.two_pow_add_eq_or_of_lt i.isLt c.toNat
  rw [← this]

theorem EncodeMatchesRow.ignore (c i : Byte) : EncodeMatchesRow.Statement (.ignore c i) := by
  intro h
  have hv := pairKey_toNat c i
  have hc := c.isLt
  have hi := i.isLt
  have hm : (c ++ i : BitVec 16).toNat &&& 0xFFFF = c.toNat * 256 + i.toNat := by
    rw [show (0xFFFF : Nat) = 2 ^ 16 - 1 from rfl, Nat.and_two_pow_sub_one_eq_mod, hv]
    omega
  have hne : ¬c.toNat * 256 + i.toNat = 0x030A ∧ ¬c.toNat * 256 + i.toNat = 0x030F := by
    simp only [Instr.wf, checkIgnore, Machine.clsTrk, Machine.idRaw, Machine.idNav, ne_eq, Prod.mk.injEq,
      decide_eq_true_eq, BitVec.toNat_eq] at h
    have h3 : (3 : Byte).toNat = 3 := rfl
    have h10 : (10 : Byte).toNat = 10 := rfl
    have h15 : (15 : Byte).toNat = 15 := rfl
    omega
  simp [keyLevelValue, encode, firstRow, rowPlace, tableRows, List.findIdx_cons, hm, hne.1, hne.2]

theorem EncodeMatchesRow.rawT6 : EncodeMatchesRow.Statement .rawT6 := fun _ => by decide

theorem EncodeMatchesRow.rawOther (t : Byte) : EncodeMatchesRow.Statement (.rawOther t) := by
  revert t; unfold EncodeMatchesRow.Statement; decide

theorem EncodeMatchesRow.navGps : EncodeMatchesRow.Statement .navGps := fun _ => by decide

theorem EncodeMatchesRow.navOther (g : Byte) : EncodeMatchesRow.Statement (.navOther g) := by
  revert g; unfold EncodeMatchesRow.Statement; decide

theorem EncodeMatchesRow.sf1 : EncodeMatchesRow.Statement .sf1 := fun _ => by decide

theorem EncodeMatchesRow.sf23 (lo : BitVec 1) : EncodeMatchesRow.Statement (.sf23 lo) := by
  revert lo; unfold EncodeMatchesRow.Statement; decide

theorem EncodeMatchesRow.sf45 (lo : BitVec 1) : EncodeMatchesRow.Statement (.sf45 lo) := by
  revert lo; unfold EncodeMatchesRow.Statement; decide

theorem EncodeMatchesRow.sfBad (x : BitVec 3) : EncodeMatchesRow.Statement (.sfBad x) := by
  revert x; unfold EncodeMatchesRow.Statement; decide

theorem EncodeMatchesRow.rdU8 (off : BitVec 16) : EncodeMatchesRow.Statement (.rdU8 off) := fun _ => by
  show firstRow (.reader, 0) = 16
  decide

theorem EncodeMatchesRow.rdU16 (off : BitVec 16) : EncodeMatchesRow.Statement (.rdU16 off) := fun _ => by
  show firstRow (.reader, 1) = 17
  decide

theorem EncodeMatchesRow.rdU32 (off : BitVec 16) : EncodeMatchesRow.Statement (.rdU32 off) := fun _ => by
  show firstRow (.reader, 2) = 18
  decide

theorem EncodeMatchesRow.rdI32 (off : BitVec 16) : EncodeMatchesRow.Statement (.rdI32 off) := fun _ => by
  show firstRow (.reader, 3) = 19
  decide

theorem EncodeMatchesRow.rdI64 (off : BitVec 16) : EncodeMatchesRow.Statement (.rdI64 off) := fun _ => by
  show firstRow (.reader, 4) = 20
  decide

theorem EncodeMatchesRow.bfU (a : BitVec 8) (n : BitVec 6) : EncodeMatchesRow.Statement (.bfU a n) := fun _ => by
  show firstRow (.reader, 5) = 21
  decide

theorem EncodeMatchesRow.bfS (a : BitVec 8) (n : BitVec 6) : EncodeMatchesRow.Statement (.bfS a n) := fun _ => by
  show firstRow (.reader, 6) = 22
  decide

end Sys2Proof.Laws
end

