-- ==== Sys2Proof/Laws/Step.lean ====
section
/-! SUPPORT. What the decoders, the append and a step can do, said once for each. -/

namespace Sys2Proof.Machine

/-- The pseudorange for a rational `C_LIGHT`. -/
theorem rangeOf_rational {par : Params} {q : Rat} (h : par.cLight = .rational q) (tau : Scalar) :
    rangeOf par tau = .real (Scalar.mul par.numerics tau (Scalar.ofRat par.numerics q)) := by
  simp [rangeOf, lightOperand, h]

/-- The pseudorange for any other `C_LIGHT` under `BINARY64`. -/
theorem rangeOf_rounded {par : Params} {w : BitVec 64} (h : par.cLight = .irrational w)
    (hm : par.numerics = .binary64) (tau : Scalar) :
    rangeOf par tau = .real (Scalar.mul .binary64 tau (.bits w)) := by
  simp [rangeOf, lightOperand, h, hm]

/-- The pseudorange for any other `C_LIGHT` under `EXACT`. -/
theorem rangeOf_product {par : Params} {w : BitVec 64} (h : par.cLight = .irrational w)
    (hm : par.numerics = .exact) (tau : Scalar) : rangeOf par tau = exactRange tau.val := by
  simp [rangeOf, lightOperand, h, hm]

/-- The four ways the raw measurement decoder ends: an exception before the receive time is known, no GPS
reference, an exception after it, or the records. -/
theorem rawDecode_cases (s : State) :
    (∃ e, rawDecode s = s.raise e) ∨ (rawDecode s = s) ∨
    (∃ v e, rawDecode s = (s.setTr v).raise e) ∨
    ∃ v S, pass2 s.par s.pay v (blockStarts s.pay.length) = .ok S ∧
      rawDecode s = ((s.setTr v).setStore S).emit ((markLast (sortObs s.par S)).map Event.obs) := by
  unfold rawDecode
  split
  · exact .inl ⟨_, rfl⟩
  · split
    · exact .inl ⟨_, rfl⟩
    · exact .inr (.inl rfl)
    · dsimp only
      split
      · exact .inr (.inr (.inl ⟨_, _, rfl⟩))
      · rename_i S hS
        exact .inr (.inr (.inr ⟨_, S, hS, rfl⟩))

/-- A subframe emits one `NAV` record or takes the exception `BadSubframeId`. -/
theorem selectSubframe_cases (s : State) :
    (∃ x, selectSubframe s = .next (s.raise (.badSubframeId x))) ∨
    ∃ n, selectSubframe s = .next (s.emit [.nav n]) := by
  unfold selectSubframe
  dsimp only
  split
  · exact .inl ⟨_, rfl⟩
  · split
    · exact .inr ⟨_, rfl⟩
    · split
      · exact .inr ⟨_, rfl⟩
      · exact .inr ⟨_, rfl⟩

/-- The navigation decoder: a word is missing, or the bit string is complete and the subframe follows. -/
theorem execNavGps_cases (s : State) :
    (∃ e, execNavGps s = .next (s.raise e)) ∨ ∃ F, execNavGps s = selectSubframe (s.setFrm F) := by
  unfold execNavGps
  split
  · exact .inl ⟨_, rfl⟩
  · exact .inr ⟨_, rfl⟩

theorem execTrkRaw_cases (s : State) :
    (∃ e, execTrkRaw s = .next (s.raise e)) ∨ execTrkRaw s = execRawT6 s ∨ execTrkRaw s = .next s := by
  unfold execTrkRaw
  split
  · exact .inl ⟨_, rfl⟩
  · split
    · exact .inr (.inl rfl)
    · exact .inr (.inr rfl)

theorem execTrkNav_cases (s : State) :
    (∃ e, execTrkNav s = .next (s.raise e)) ∨ execTrkNav s = execNavGps s ∨ execTrkNav s = .next s := by
  unfold execTrkNav
  split
  · exact .inl ⟨_, rfl⟩
  · split
    · exact .inr (.inl rfl)
    · exact .inr (.inr rfl)

/-- A reader operation writes its result output or takes the exception. -/
theorem readerResult_cases (s : State) (r : Except Exc Int) :
    (∃ v, readerResult s r = s.setRd v) ∨ ∃ e, readerResult s r = s.raise e := by
  cases r with
  | ok v => exact .inl ⟨v, rfl⟩
  | error e => exact .inr ⟨e, rfl⟩

/-- The dispatcher runs one of its three operations. -/
theorem dispatchMessage_cases (s : State) :
    dispatchMessage s = execTrkRaw s ∨ dispatchMessage s = execTrkNav s ∨ dispatchMessage s = .next s := by
  unfold dispatchMessage
  split
  · exact .inl rfl
  · split
    · exact .inr (.inl rfl)
    · exact .inr (.inr rfl)

/-- A property of an outcome's next state, where there must be one. -/
abbrev Lands (P : State → Prop) (o : Host.Outcome State Fault Refusal) : Prop := ∃ t, o = .next t ∧ P t

/-- What holds of the state a message is decoded in, and of every state the exception, the emission of events
and a write of the working state (the store taking what pass 2 gives) make from one where it holds, holds where the dispatcher ends; and the
dispatcher ends in a next state. -/
theorem dispatchMessage_lands {P : State → Prop}
    (hraise : ∀ s e, P s → P (s.raise e)) (hemit : ∀ s evs, P s → P (s.emit evs))
    (hfrm : ∀ s F, P s → P (s.setFrm F)) (htr : ∀ s v, P s → P (s.setTr v))
    (hstore : ∀ s v S, pass2 s.par s.pay v (blockStarts s.pay.length) = .ok S → P s → P (s.setStore S)) {s : State} (h : P s) : Lands P (dispatchMessage s) := by
  have hnav : ∀ s, P s → Lands P (execNavGps s) := by
    intro s h
    rcases execNavGps_cases s with ⟨e, he⟩ | ⟨F, hF⟩
    · exact ⟨_, he, hraise _ _ h⟩
    · rw [hF]
      rcases selectSubframe_cases (s.setFrm F) with ⟨x, hx⟩ | ⟨n, hn⟩
      · exact ⟨_, hx, hraise _ _ (hfrm _ _ h)⟩
      · exact ⟨_, hn, hemit _ _ (hfrm _ _ h)⟩
  have hraw : ∀ s, P s → Lands P (execRawT6 s) := by
    intro s h
    refine ⟨_, rfl, ?_⟩
    rcases rawDecode_cases s with ⟨e, he⟩ | hs | ⟨v, e, he⟩ | ⟨v, S, hp, hS⟩
    · rw [he]; exact hraise _ _ h
    · rw [hs]; exact h
    · rw [he]; exact hraise _ _ (htr _ _ h)
    · rw [hS]; exact hemit _ _ (hstore _ v S hp (htr _ _ h))
  rcases dispatchMessage_cases s with h1 | h1 | h1
  · rcases execTrkRaw_cases s with ⟨e, he⟩ | h2 | h2
    · exact ⟨_, h1.trans he, hraise _ _ h⟩
    · rw [h1, h2]; exact hraw _ h
    · exact ⟨_, h1.trans h2, h⟩
  · rcases execTrkNav_cases s with ⟨e, he⟩ | h2 | h2
    · exact ⟨_, h1.trans he, hraise _ _ h⟩
    · rw [h1, h2]; exact hnav _ h
    · exact ⟨_, h1.trans h2, h⟩
  · exact ⟨_, h1, h⟩

/-- A handed-on frame ends in a next state: nothing happens to a frame whose checksum counts and is wrong; else
the message begins, its `FRAME` goes out, it is dispatched, and it ends. -/
theorem handOn_cases (s : State) (f : FrameRec) :
    (s.par.checkChecksum = true ∧ f.ckOk = false ∧ handOn s f = .next s) ∨
    (¬(s.par.checkChecksum = true ∧ f.ckOk = false) ∧
      handOn s f = onNext State.endMessage
        (dispatchMessage ((s.beginMessage f.cls f.id f.payload).emit [.frame f]))) := by
  unfold handOn
  split
  · rename_i h
    exact .inl ⟨h.1, h.2, rfl⟩
  · rename_i h
    exact .inr ⟨h, rfl⟩

/-- The declared length is there when addresses 2 and 3 were written. -/
theorem declaredLength_ok {m : Memory} {lo hi : Byte} (h2 : m.read 2 = some lo) (h3 : m.read 3 = some hi) :
    declaredLength m = .ok (lo.toNat + 256 * hi.toNat) := by
  simp [declaredLength, Memory.fetchRange, Memory.fetch, h2, h3]

/-- Before the fourth byte no length is tested. -/
theorem afterAppend_header {s : State} {c : Nat} (h : c < 4) : afterAppend s c = .next s := if_pos h

/-- The fourth byte of a frame that does not fit. -/
theorem afterAppend_overflow {s : State} {c L : Nat} (hL : declaredLength s.buf = .ok L) (hc : c = 4)
    (h : s.par.bufCap < L + 6) : afterAppend s c = .next (s.setSync .idle 0) := by
  subst hc
  have h' : hdrLen = hdrLen ∧ s.par.bufCap < L + hdrLen + trlLen := ⟨rfl, h⟩
  simp only [afterAppend, show ¬(4 < hdrLen) by decide, if_false, hL]
  exact if_pos h'

/-- The byte that completes a frame. -/
theorem afterAppend_complete {s : State} {c L : Nat} (hL : declaredLength s.buf = .ok L) (hc : c = L + 6)
    (h4 : 4 ≤ c) (h : ¬(c = 4 ∧ s.par.bufCap < L + 6)) : afterAppend s c = complete s L := by
  have h' : ¬(c = hdrLen ∧ s.par.bufCap < L + hdrLen + trlLen) := h
  simp only [afterAppend, show ¬(c < hdrLen) from Nat.not_lt.2 h4, if_false, hL, if_neg h']
  exact if_pos hc

/-- Any other byte from the fourth on. -/
theorem afterAppend_continue {s : State} {c L : Nat} (hL : declaredLength s.buf = .ok L) (hc : c ≠ L + 6)
    (h4 : 4 ≤ c) (h : ¬(c = 4 ∧ s.par.bufCap < L + 6)) : afterAppend s c = .next s := by
  have h' : ¬(c = hdrLen ∧ s.par.bufCap < L + hdrLen + trlLen) := h
  simp only [afterAppend, show ¬(c < hdrLen) from Nat.not_lt.2 h4, if_false, hL, if_neg h']
  exact if_neg hc

/-- Everything an append can do after the byte is stored. -/
theorem afterAppend_cases (s : State) (c : Nat) :
    (c < hdrLen ∧ afterAppend s c = .next s) ∨
    (hdrLen ≤ c ∧
      ((∃ e, declaredLength s.buf = .error e ∧ afterAppend s c = .fault e) ∨
       ∃ L, declaredLength s.buf = .ok L ∧
        ((c = hdrLen ∧ s.par.bufCap < L + hdrLen + trlLen ∧ afterAppend s c = .next (s.setSync .idle 0)) ∨
         (¬(c = hdrLen ∧ s.par.bufCap < L + hdrLen + trlLen) ∧ c = L + hdrLen + trlLen ∧
          afterAppend s c = complete s L) ∨
         (¬(c = hdrLen ∧ s.par.bufCap < L + hdrLen + trlLen) ∧ c ≠ L + hdrLen + trlLen ∧
          afterAppend s c = .next s)))) := by
  unfold afterAppend
  split
  · rename_i h
    exact .inl ⟨h, rfl⟩
  · rename_i h
    refine .inr ⟨Nat.not_lt.1 h, ?_⟩
    split
    · rename_i e he
      exact .inl ⟨e, he, rfl⟩
    · rename_i L hL
      refine .inr ⟨L, hL, ?_⟩
      split
      · rename_i h1
        exact .inl ⟨h1.1, h1.2, rfl⟩
      · rename_i h1
        split
        · rename_i h2
          exact .inr (.inl ⟨h1, h2, rfl⟩)
        · rename_i h2
          exact .inr (.inr ⟨h1, h2, rfl⟩)

/-- Everything an append can do. -/
theorem execSyncAccAppend_cases (b : Byte) (s : State) :
    (s.par.bufCap ≤ s.cnt.toNat ∧ execSyncAccAppend b s = .fault (.noSuchAddress s.cnt.toNat)) ∨
    (s.cnt.toNat < s.par.bufCap ∧
      execSyncAccAppend b s =
        afterAppend ({ s with buf := s.buf.write s.cnt.toNat b }.setSync s.st (s.cnt + 1)) (s.cnt.toNat + 1)) := by
  unfold execSyncAccAppend State.memWrite
  split_ifs with h
  · exact .inr ⟨h, rfl⟩
  · exact .inl ⟨Nat.not_lt.1 h, rfl⟩

/-- Everything one step can do. -/
theorem step_cases (s : State) :
    (s.rst = true ∧ step s = .next s.waitRst) ∨
    (s.rst = false ∧ ∃ k, s.op = some k ∧ step s = onNext State.deliver (runKey (decodeInner k) s.clearOp)) ∨
    (s.rst = false ∧ s.op = none ∧ s.busy = true ∧ step s = .next s.waitRst) ∨
    (s.rst = false ∧ s.op = none ∧ s.busy = false ∧ step s = takeMove s) := by
  unfold step runStep
  cases s.rst <;> cases s.op <;> cases s.busy <;> simp

/-- What waiting for the reset input can do. -/
theorem waitRst_cases (s : State) :
    s.waitRst = s ∨ ∃ level rest, takeRst s.inq = some (level, rest) ∧
      (s.waitRst = (s.setInq rest).afterReset level ∨ s.waitRst = s.setInq rest) := by
  unfold State.waitRst
  split
  · exact .inl rfl
  · rename_i level rest h
    refine .inr ⟨level, rest, h, ?_⟩
    unfold State.moveRst
    split
    · exact .inl rfl
    · exact .inr rfl

end Sys2Proof.Machine
end

