-- ==== Sys2Proof/Tests/Slice0.lean ====
section
/-! SUPPORT. Tests: ill-formed terms that each check refuses, words written out from the encodings, one step of
every operation against the vectors of 95_test_vectors.md (cited as V followed by its section), and for every
statement with hypotheses a state and operands that meet them. -/

namespace Sys2Proof.Tests

open Sys2Proof.Machine

/-- The next state of an outcome, if there is one. -/
def nextOf (o : Host.Outcome State Fault Refusal) : Option State :=
  match o with
  | .next t => some t
  | .fault _ => none
  | .refused _ => none

theorem next_of_some {o : Host.Outcome State Fault Refusal} {t : State} (h : nextOf o = some t) : o = .next t := by
  cases o <;> simp_all [nextOf]

theorem next_of_isSome {o : Host.Outcome State Fault Refusal} (h : (nextOf o).isSome = true) : ∃ t, o = .next t := by
  cases o <;> simp_all [nextOf]

/-- A field of the next state of one operation. -/
def after {α : Type} (i : Instr) (s : State) (g : State → α) : Option α := (nextOf (exec i s)).map g

/-- A message under decode. -/
def msg (c i : Byte) (P : List Byte) : State := { State.reset with cls := c, id := i, pay := P }

/-- `n` zero bytes. -/
def zeros (n : Nat) : List Byte := List.replicate n 0

/-- The accumulation state with bytes in the buffer (V2.2 gives it as `ACC, cnt, buf`). -/
def accumulating (bs : List Byte) : State :=
  { State.reset with st := .acc, cnt := BitVec.ofNat 17 bs.length, buf := bs.zipIdx.map (fun p => (p.2, p.1)) }

/-- The state with one byte offered. -/
def offering (s : State) (b : Byte) : State := { s with inq := [.byte b] }

/-- The state with `BUF_CAP` 64 (V2.2). -/
def cap64 (s : State) : State := { s with par := { s.par with bufCap := 64 } }

/-- The state under `NUMERICS = EXACT`. -/
def exactly (s : State) : State := { s with par := { s.par with numerics := .exact } }

/-- The state with a `C_LIGHT` that is no rational: the square root of 2, nearest to this word. -/
def lit (s : State) : State := { s with par := { s.par with cLight := .irrational 0x3FF6A09E667F3BCD } }

/-- The state with `CHECK_CHECKSUM` 1. -/
def checking (s : State) : State := { s with par := { s.par with checkChecksum := true } }

/-- `BLK(g, sv, q, ms=1000, snr=256 n, half=h)` of V2.5. -/
def blk (g sv q n h : Byte) : List Byte :=
  [0, 0, 0, 0, 0xE8, 0x03, 0, 0] ++ zeros 25 ++ [n] ++ zeros 7 ++ [q] ++ zeros 12 ++ [h, 0, g, sv] ++ zeros 6

/-- `HDR` of V2.5. -/
def hdr : List Byte := 6 :: zeros 79

/-- A raw measurement message. -/
def raw (P : List Byte) : State := msg 0x03 0x0A P

/-- A navigation message. -/
def nav (P : List Byte) : State := msg 0x03 0x0F P

/-- The payload of V2.1. -/
def readerPayload : List Byte := [0xF0, 0xFF, 0x7F, 0x80, 0x01, 0x00, 0x00, 0x80, 0xFF, 0xFF, 0xFF]

/-- The ten data words of program 1 (V3.1). -/
def words1 : List Nat :=
  [0x8B0000, 0xC4DF84, 0x565202, 0, 0, 0, 0x0000FE, 0xA504D2, 0x80FFFF, 0x7FFFFC]

/-- The bit string of program 1. -/
def frm1 : State := { State.reset with cls := 0x03, id := 0x0F, frm := frmOf words1 }

/-- `NAVP1` of V3.1, byte 18 being `x`. -/
def navp1 (x : Byte) : List Byte :=
  zeros 13 ++ [0x2A, 0x00, 0xC0, 0xA2, 0x2A, x, 0x37, 0xB1, 0xAA, 0x80, 0x94, 0x95] ++
  [0x2A, 0, 0, 0x80, 0x2A, 0, 0, 0x80, 0x2A, 0, 0, 0x80, 0xAA, 0x3F, 0x00, 0x80] ++
  [0xAA, 0x34, 0x41, 0xA9, 0xEA, 0xFF, 0x3F, 0xA0, 0x2A, 0xFF, 0xFF, 0x9F]

/-! The checks of WellFormed: for each, a term that it refuses. -/

theorem test_check_idle_miss : (Instr.syncIdleMiss 0xB5).wf = false := by decide
theorem test_check_seen1_miss : (Instr.syncSeen1Miss 0x62).wf = false := by decide
theorem test_check_ignore : (Instr.ignore 0x03 0x0A).wf = false ∧ (Instr.ignore 0x03 0x0F).wf = false := by decide
theorem test_check_raw_other : (Instr.rawOther 6).wf = false := by decide
theorem test_check_nav_other : (Instr.navOther 0).wf = false := by decide
theorem test_check_sf_bad : (Instr.sfBad 1).wf = false ∧ (Instr.sfBad 5).wf = false := by decide
theorem test_check_bf_width :
    (Instr.bfU 0 0).wf = false ∧ (Instr.bfU 0 25).wf = false ∧ (Instr.bfS 0 0).wf = false := by decide
theorem test_check_bf_end : (Instr.bfU 240 1).wf = false ∧ (Instr.bfS 217 24).wf = false := by decide

theorem test_default_legal : defaultParams.legal = true := by decide +kernel
theorem test_check_buf_cap :
    checkBufCap { defaultParams with bufCap := 5 } = false ∧
    checkBufCap { defaultParams with bufCap := 65542 } = false := by decide
theorem test_check_const_rank :
    checkConstRank { defaultParams with constRank := [.gps, .gps, .sbas, .galileo, .qzss, .beidou] } = false := by
  decide
theorem test_check_gps_before_sbas :
    checkGpsBeforeSbas { defaultParams with constRank := [.sbas, .gps] } = false := by decide
theorem test_check_c_light :
    checkCLight { defaultParams with cLight := .rational 0 } = false ∧
    checkCLight { defaultParams with cLight := .irrational 0x8000000000000000 } = false ∧
    checkCLight { defaultParams with cLight := .irrational 0x7FF0000000000001 } = false := by decide +kernel
theorem test_check_codes_map : checkCodesMap { defaultParams with gnssCodes := [(0, .gps), (0, .sbas)] } = false := by
  decide
theorem test_check_codes_injective :
    checkCodesInjective { defaultParams with gnssCodes := [(0, .gps), (1, .gps)] } = false := by decide
theorem test_check_codes_gps : checkCodesGps { defaultParams with gnssCodes := [(1, .gps)] } = false := by decide
theorem test_check_nav_gnss_off : checkNavGnssOff { defaultParams with navGnssOff := 13 } = false := by decide
theorem test_check_blk : checkBlk { defaultBlk with rawTime := 57 } = false := by decide
theorem test_check_sf : checkSf { defaultSf with af0Raw := 219 } = false := by decide

/-! Words written out bit by bit from 30_encoding.md R104, R105, R113 and R120, one for every constructor. -/

theorem test_decode_sync_idle_hit : decode (.byte 0b0010110101) = .ok .syncIdleHit := by decide
theorem test_decode_sync_idle_miss : decode (.byte 0b0001100010) = .ok (.syncIdleMiss 0x62) := by decide
theorem test_decode_sync_seen1_hit : decode (.byte 0b0101100010) = .ok .syncSeen1Hit := by decide
theorem test_decode_sync_seen1_miss : decode (.byte 0b0110110101) = .ok (.syncSeen1Miss 0xB5) := by decide
theorem test_decode_sync_acc_append : decode (.byte 0b1001100010) = .ok (.syncAccAppend 0x62) := by decide
theorem test_decode_unused_state : decode (.byte 0b1100000000) = .error .unusedStateCode := by decide
theorem test_decode_trk_raw : decode (.inner (.frame 0b0000001100001010)) = .ok .trkRaw := by decide
theorem test_decode_trk_nav : decode (.inner (.frame 0b0000001100001111)) = .ok .trkNav := by decide
theorem test_decode_ignore : decode (.inner (.frame 0b0000101000000011)) = .ok (.ignore 0x0A 0x03) := by decide
theorem test_decode_raw_t6 : decode (.inner (.raw 0b00000110)) = .ok .rawT6 := by decide
theorem test_decode_raw_other : decode (.inner (.raw 0b10000110)) = .ok (.rawOther 0x86) := by decide
theorem test_decode_nav_gps : decode (.inner (.nav 0b00000000)) = .ok .navGps := by decide
theorem test_decode_nav_other : decode (.inner (.nav 0b00000110)) = .ok (.navOther 6) := by decide
theorem test_decode_sf1 : decode (.inner (.subframe 0b001)) = .ok .sf1 := by decide
theorem test_decode_sf23 :
    decode (.inner (.subframe 0b010)) = .ok (.sf23 0) ∧ decode (.inner (.subframe 0b011)) = .ok (.sf23 1) := by decide
theorem test_decode_sf45 :
    decode (.inner (.subframe 0b100)) = .ok (.sf45 0) ∧ decode (.inner (.subframe 0b101)) = .ok (.sf45 1) := by decide
theorem test_decode_sf_bad :
    decode (.inner (.subframe 0b000)) = .ok (.sfBad 0) ∧ decode (.inner (.subframe 0b110)) = .ok (.sfBad 6) ∧
    decode (.inner (.subframe 0b111)) = .ok (.sfBad 7) := by decide
theorem test_decode_rd_u8 : decode (.inner (.reader 0b000 11 0 0)) = .ok (.rdU8 11) := by decide
theorem test_decode_rd_u16 : decode (.inner (.reader 0b001 10 0 0)) = .ok (.rdU16 10) := by decide
theorem test_decode_rd_u32 : decode (.inner (.reader 0b010 1 0 0)) = .ok (.rdU32 1) := by decide
theorem test_decode_rd_i32 : decode (.inner (.reader 0b011 7 0 0)) = .ok (.rdI32 7) := by decide
theorem test_decode_rd_i64 : decode (.inner (.reader 0b100 3 0 0)) = .ok (.rdI64 3) := by decide
theorem test_decode_bf_u : decode (.inner (.reader 0b101 0 24 17)) = .ok (.bfU 24 17) := by decide
theorem test_decode_bf_s : decode (.inner (.reader 0b110 0 160 8)) = .ok (.bfS 160 8) := by decide
theorem test_decode_reserved_reader : decode (.inner (.reader 0b111 0 0 0)) = .error .reservedReaderOp := by decide

/-- Table words whose value names their level (log 2). -/
theorem test_table_words :
    decodeTableWord 16 0x00B5 = some .syncIdleHit ∧ decodeTableWord 16 0x0162 = some .syncSeen1Hit ∧
    decodeTableWord 16 0x0200 = some (.syncAccAppend 0) ∧ decodeTableWord 16 0x030A = some .trkRaw ∧
    decodeTableWord 16 0x0402 = some (.ignore 4 2) ∧ decodeTableWord 8 0x06 = some .rawT6 := by decide

/-- A placed word is the next step's operation (log 1). -/
theorem test_fetch_runs_placed_word :
    nextOf (step (State.reset.withFetchWord 16 0x00B5)) = some { State.reset with st := .seen1 } ∧
    nextOf (step (State.reset.withFetchWord 16 0x0162)) = some { State.reset with st := .acc } := by decide

/-! One step of every operation. -/

/-- V2.2 S2. -/
theorem test_sync_idle_hit : after .syncIdleHit State.reset (fun t => (t.st, t.cnt)) = some (.seen1, 0) := by decide

/-- V2.2 S1. -/
theorem test_sync_idle_miss : after (.syncIdleMiss 0x62) State.reset (fun t => t) = some State.reset := by decide

/-- V2.2 S5. -/
theorem test_sync_seen1_hit :
    after .syncSeen1Hit { State.reset with st := .seen1 } (fun t => (t.st, t.cnt)) = some (.acc, 0) := by decide

/-- V2.2 S3. -/
theorem test_sync_seen1_miss :
    after (.syncSeen1Miss 0xB5) { State.reset with st := .seen1 } (fun t => (t.st, t.cnt)) = some (.idle, 0) := by
  decide

/-- V2.2 S16. -/
theorem test_append_header :
    after (.syncAccAppend 0xB5) (accumulating [0x03, 0x0A, 0x10]) (fun t => t) =
      some (accumulating [0x03, 0x0A, 0x10, 0xB5]) := by decide

/-- V2.2 S8. -/
theorem test_append_completes :
    after (.syncAccAppend 0x2A) (accumulating [0x03, 0x0A, 0, 0, 0x0D]) (fun t => (t.st, t.cnt, t.evq)) =
      some (.idle, 0,
        [.frame { cls := 3, id := 0x0A, len := 0, payload := [], ckA := 0x0D, ckB := 0x2A, ckOk := true },
         .err { code := 1, cls := 3, id := 0x0A, off := 0, n := 1, sfid := 0 }]) := by decide

/-- V2.2 S13, S14. -/
theorem test_overflow_guard :
    after (.syncAccAppend 0) (cap64 (accumulating [1, 2, 0x3A])) (fun t => (t.st, t.cnt)) = some (.acc, 4) ∧
    after (.syncAccAppend 0) (cap64 (accumulating [1, 2, 0x3B])) (fun t => (t.st, t.cnt)) = some (.idle, 0) := by
  decide

/-- V2.2 S9, S10. -/
theorem test_checksum_enforced :
    after (.syncAccAppend 0) (accumulating [1, 2, 1, 0, 1, 0]) (fun t => t.evq) =
      some [.frame { cls := 1, id := 2, len := 1, payload := [1], ckA := 0, ckB := 0, ckOk := false }] ∧
    after (.syncAccAppend 0) (checking (accumulating [1, 2, 1, 0, 1, 0])) (fun t => (t.st, t.evq)) =
      some (.idle, []) := by decide

/-- V2.2, checksum values. -/
theorem test_fletcher :
    fletcher [0x03, 0x0A, 0, 0] = (0x0D, 0x2A) ∧ fletcher ([0x03, 0x0F, 0x14, 0] ++ zeros 20) = (0x26, 0x59) ∧
    fletcher [0xFF, 0xFF] = (0xFE, 0xFD) := by decide

/-- V2.3: an empty payload; V2.5: another discriminator. -/
theorem test_trk_raw :
    after .trkRaw (raw []) (fun t => t.evq) =
      some [.err { code := 1, cls := 3, id := 0x0A, off := 0, n := 1, sfid := 0 }] ∧
    after .trkRaw (raw [5, 0, 0]) (fun t => t.evq) = some [] := by decide

/-- V2.3: a payload of one byte; V2.4: GLONASS. -/
theorem test_trk_nav :
    after .trkNav (nav [0]) (fun t => t.evq) =
      some [.err { code := 1, cls := 3, id := 0x0F, off := 1, n := 1, sfid := 0 }] ∧
    after .trkNav (nav [0, 6]) (fun t => t.evq) = some [] := by decide

/-- V2.3. -/
theorem test_ignore : after (.ignore 0x0A 0x03) (msg 0x0A 0x03 [6]) (fun t => t) = some (msg 0x0A 0x03 [6]) := by
  decide

/-- V2.5: the first record of a message, field by field (program 5's and the header's notes give the values). -/
theorem test_raw_t6_record :
    after .rawT6 (raw (hdr ++ (blk 0 1 4 0 0).take 58)) (fun t => t.evq) =
      some [.obs { gnss := 0, prn := 1, qi := 4, rawTime := 1000 * 2 ^ 32, rawAdr := 0, rawDop := 0, rawSnr := 0,
                   half := false, snr := .bits 0, tau := .bits 0x3FB99999999999A0, tr := .bits 0x3FF199999999999A,
                   p := .real (.bits 0x417C9726DCCCCCD4), d := .bits 0, lCp := .bits 0x8000000000000000, last := true }] := by
  decide +kernel

/-- V1.7, and QZSS of V2.5: the order of the records and the `last` bit. -/
theorem test_raw_t6_order :
    after .rawT6 (exactly (raw (hdr ++ blk 1 120 7 0 0 ++ blk 0 5 7 0 0 ++ blk 5 255 4 0 0 ++ blk 0 1 7 0 0)))
      (fun t => t.evq.map (fun e => match e with | .obs o => (o.gnss.toNat, o.prn.toNat, o.last) | _ => (9, 0, false))) =
      some [(0, 1, false), (0, 5, false), (5, 447, false), (1, 120, true)] := by decide +kernel

/-- V2.5. -/
theorem test_raw_other : after (.rawOther 0x86) (raw [0x86]) (fun t => t) = some (raw [0x86]) := by decide

/-- V2.4: ten zero words, and a short payload. -/
theorem test_nav_gps_errors :
    after .navGps (nav (zeros 53)) (fun t => t.evq) =
      some [.err { code := 2, cls := 3, id := 0x0F, off := 0, n := 0, sfid := 0 }] ∧
    after .navGps (nav (zeros 20)) (fun t => t.evq) =
      some [.err { code := 1, cls := 3, id := 0x0F, off := 17, n := 4, sfid := 0 }] := by decide

/-- V1.5 and V3.1: the bit string, and another subframe id. -/
theorem test_nav_gps_string :
    after .navGps (nav (navp1 0xE3)) (fun t => t.evq) = some [.nav { sfid := 3, hasFields := false, fields := none }] ∧
    after .navGps (nav (navp1 0xE2)) (fun t => (t.frm.toNat >>> 216, t.frm.toNat % 2 ^ 24)) =
      some (0x8B0000, 0x7FFFFC) := by decide

/-- V2.4. -/
theorem test_nav_other : after (.navOther 6) (nav [0, 6]) (fun t => t) = some (nav [0, 6]) := by decide

/-- V3.1: the subframe-1 record of program 1. -/
theorem test_sf1 :
    after .sf1 frm1 (fun t => t.evq) = some [.nav (NavRec.mk 1 true (some
      { towRaw := 100799, tow := 604794, wn := 345, codeL2 := 1, ura := 2, health := 0, iodc := 677,
        tgdRaw := -2, tgd := .bits 0xBE10000000000000, tocRaw := 1234, toc := 19744,
        af2Raw := -128, af2 := .bits 0xBCF0000000000000, af1Raw := -1, af1 := .bits 0xBD40000000000000,
        af0Raw := 2097151, af0 := .bits 0x3F4FFFFF00000000 }))] := by decide +kernel

/-- V1.5. -/
theorem test_sf23 : after (.sf23 1) frm1 (fun t => t.evq) =
    some [.nav { sfid := 3, hasFields := false, fields := none }] := by decide

/-- V1.5. -/
theorem test_sf45 : after (.sf45 0) frm1 (fun t => t.evq) =
    some [.nav { sfid := 4, hasFields := false, fields := none }] := by decide

/-- V1.5. -/
theorem test_sf_bad : after (.sfBad 7) frm1 (fun t => t.evq) =
    some [.err { code := 2, cls := 3, id := 0x0F, off := 0, n := 0, sfid := 7 }] := by decide

/-- V2.1. -/
theorem test_rd_u8 :
    after (.rdU8 10) (raw readerPayload) (fun t => t.rd) = some 255 ∧
    after (.rdU8 11) (raw readerPayload) (fun t => t.evq) =
      some [.err { code := 1, cls := 3, id := 0x0A, off := 11, n := 1, sfid := 0 }] := by decide

/-- V2.1. -/
theorem test_rd_u16 :
    after (.rdU16 1) (raw readerPayload) (fun t => t.rd) = some 0x7FFF ∧
    after (.rdU16 10) (raw readerPayload) (fun t => t.evq) =
      some [.err { code := 1, cls := 3, id := 0x0A, off := 10, n := 2, sfid := 0 }] := by decide

/-- V2.1. -/
theorem test_rd_u32 : after (.rdU32 1) (raw readerPayload) (fun t => t.rd) = some 0x01807FFF := by decide

/-- V2.1. -/
theorem test_rd_i32 :
    after (.rdI32 4) (raw readerPayload) (fun t => t.rd) = some (-2147483647) ∧
    after (.rdI32 7) (raw readerPayload) (fun t => t.rd) = some (-128) := by decide

/-- V2.1. -/
theorem test_rd_i64 :
    after (.rdI64 0) (raw readerPayload) (fun t => t.rd) = some (-9223372030403936272) ∧
    after (.rdI64 3) (raw readerPayload) (fun t => t.rd) = some (-549755813504) := by decide

/-- V2.1. -/
theorem test_bf_u :
    after (.bfU 24 17) frm1 (fun t => t.rd) = some 100799 ∧ after (.bfU 239 1) frm1 (fun t => t.rd) = some 0 ∧
    after (.bfU 237 1) frm1 (fun t => t.rd) = some 1 := by decide

/-- V2.1. -/
theorem test_bf_s :
    after (.bfS 0 8) frm1 (fun t => t.rd) = some (-117) ∧ after (.bfS 0 1) frm1 (fun t => t.rd) = some (-1) ∧
    after (.bfS 216 22) frm1 (fun t => t.rd) = some 2097151 := by decide

/-- V2.7: a byte offered while the reset input is high is held. -/
theorem test_reset_holds_byte :
    nextOf (step { State.reset with st := .seen1, rst := true, inq := [.byte 0x62, .rst false] }) =
      some { State.reset with inq := [.byte 0x62] } := by decide

/-- V2.5, snap: 0.17 under both rounding modes. -/
theorem test_snap_tie :
    snap defaultParams (.bits 0x3FC5C28F5C28F5C3) = .bits 0x3FC999999999999A ∧
    snap { defaultParams with roundMode := .halfAway } (.bits 0x3FC5C28F5C28F5C3) = .bits 0x3FD3333333333334 := by
  decide +kernel

/-- 43_raw_measurement.md R255 for a `C_LIGHT` that is no rational and next to 299792458: under `BINARY64` the
pseudorange of its example, under `EXACT` a rational times `C_LIGHT`. -/
theorem test_irrational_light :
    rangeOf { defaultParams with cLight := .irrational 0x41B1DE784A000000 } (.bits 0x3FB3333333300000) =
      .real (.bits 0x4175715D259606B5) ∧
    rangeOf { defaultParams with cLight := .irrational 0x41B1DE784A000000, numerics := .exact } (.exact (mkRat 3 40)) =
      .timesLight (mkRat 3 40) ∧
    rangeOf { defaultParams with cLight := .irrational 0x41B1DE784A000000, numerics := .exact } (.exact 0) =
      .real (.exact 0) := by decide +kernel

/-- V2.5, week wrap: 302400 stays, 302400.5 is adjusted. -/
theorem test_week_wrap :
    weekWrap .exact (.exact 302400) = .exact 302400 ∧
    weekWrap .exact (.exact (mkRat 604801 2)) = .exact (-mkRat 604799 2) ∧
    weekWrap .exact (.exact (-303000)) = .exact 301800 := by decide +kernel

/-! The hypotheses of every statement are met together by a concrete state and operands; where a statement has
clauses, each clause at a boundary of its range. -/

theorem witness_SyncIdleHitGoesToSeen1 : State.reset.st = .idle := by decide

theorem witness_SyncIdleMissChangesNothing : (0xB4 : Byte) ≠ 0xB5 ∧ State.reset.st = .idle := by decide

theorem witness_SyncSeen1HitEntersAcc : ({ State.reset with st := .seen1 } : State).st = .seen1 := by decide

theorem witness_SyncSeen1MissReturnsToIdle :
    (0xB5 : Byte) ≠ 0x62 ∧ ({ State.reset with st := .seen1 } : State).st = .seen1 := by decide

/-- The first byte; the third byte. -/
theorem witness_AppendContinues_header :
    (accumulating []).cnt.toNat < (accumulating []).par.bufCap ∧ (accumulating []).cnt.toNat + 1 < 4 ∧
    (accumulating [1, 2]).cnt.toNat < (accumulating [1, 2]).par.bufCap ∧
    (accumulating [1, 2]).cnt.toNat + 1 < 4 := by decide

/-- The fourth byte of the longest frame a buffer of 64 bytes takes. -/
theorem witness_AppendContinues_length : ∃ L,
    (cap64 (accumulating [1, 2, 0x3A])).cnt.toNat < (cap64 (accumulating [1, 2, 0x3A])).par.bufCap ∧
    (cap64 (accumulating [1, 2, 0x3A])).declaresAfter 0 L ∧
    4 ≤ (cap64 (accumulating [1, 2, 0x3A])).cnt.toNat + 1 ∧
    (cap64 (accumulating [1, 2, 0x3A])).cnt.toNat + 1 ≠ L + 6 ∧
    ((cap64 (accumulating [1, 2, 0x3A])).cnt.toNat + 1 = 4 →
      L + 6 ≤ (cap64 (accumulating [1, 2, 0x3A])).par.bufCap) :=
  ⟨58, by decide, ⟨0x3A, 0, by decide⟩, by decide⟩

/-- The byte before the last of a frame. -/
theorem witness_AppendContinues_body : ∃ L,
    (accumulating [1, 2, 0, 0]).cnt.toNat < (accumulating [1, 2, 0, 0]).par.bufCap ∧
    (accumulating [1, 2, 0, 0]).declaresAfter 0x0D L ∧ 4 ≤ (accumulating [1, 2, 0, 0]).cnt.toNat + 1 ∧
    (accumulating [1, 2, 0, 0]).cnt.toNat + 1 ≠ L + 6 ∧
    ((accumulating [1, 2, 0, 0]).cnt.toNat + 1 = 4 → L + 6 ≤ (accumulating [1, 2, 0, 0]).par.bufCap) :=
  ⟨0, by decide, ⟨0, 0, by decide⟩, by decide⟩

/-- The shortest frame that does not fit 64 bytes; the longest length in a full buffer. -/
theorem witness_OverflowGuardDiscards :
    ((cap64 (accumulating [1, 2, 0x3B])).cnt.toNat = 3 ∧ 3 < (cap64 (accumulating [1, 2, 0x3B])).par.bufCap ∧
      (cap64 (accumulating [1, 2, 0x3B])).declaresAfter 0 59 ∧
      (cap64 (accumulating [1, 2, 0x3B])).par.bufCap < 59 + 6) ∧
    ((accumulating [1, 2, 0xFF]).par.bufCap = 65541 ∧ (accumulating [1, 2, 0xFF]).declaresAfter 0xFF 65535) :=
  ⟨⟨by decide, by decide, ⟨0x3B, 0, by decide⟩, by decide⟩, by decide, ⟨0xFF, 0xFF, by decide⟩⟩

/-- The shortest frame, with a right trailer; with a wrong one that counts. -/
theorem witness_AppendCompletesFrame :
    (let s := accumulating [3, 0x0A, 0, 0, 0x0D]
     let f : Nat → Byte := fun a => [3, 0x0A, 0, 0, 0x0D, 0x2A].getD a 0
     s.cnt.toNat < s.par.bufCap ∧ s.cnt.toNat + 1 = 0 + 6 ∧ s.declaresAfter 0x2A 0 ∧
      (∀ a < 0 + 6, s.bufAfter 0x2A a = some (f a)) ∧
      ¬(s.par.checkChecksum = true ∧
        decide ((f (0 + 4), f (0 + 5)) = fletcher ((List.range (0 + 4)).map f)) = false)) ∧
    (let s := checking (accumulating [3, 0x0A, 0, 0, 0x0D])
     let f : Nat → Byte := fun a => [3, 0x0A, 0, 0, 0x0D, 0x2B].getD a 0
     s.cnt.toNat < s.par.bufCap ∧ s.cnt.toNat + 1 = 0 + 6 ∧ s.declaresAfter 0x2B 0 ∧
      (∀ a < 0 + 6, s.bufAfter 0x2B a = some (f a)) ∧
      (s.par.checkChecksum = true ∧
        decide ((f (0 + 4), f (0 + 5)) = fletcher ((List.range (0 + 4)).map f)) = false)) :=
  ⟨⟨by decide, by decide, ⟨0, 0, by decide⟩, by decide, by decide⟩,
   ⟨by decide, by decide, ⟨0, 0, by decide⟩, by decide, by decide⟩⟩

/-- The last byte of a frame takes the block out of `ACC`. -/
theorem witness_LeavingAccEmptiesBuffer : ∃ t,
    ((offering (accumulating [3, 0x0A, 0, 0, 0x0D]) 0x2A).st ≠ .acc →
      (offering (accumulating [3, 0x0A, 0, 0, 0x0D]) 0x2A).cnt = 0) ∧
    step (offering (accumulating [3, 0x0A, 0, 0, 0x0D]) 0x2A) = .next t ∧ t.st ≠ .acc := by
  have h : (nextOf (step (offering (accumulating [3, 0x0A, 0, 0, 0x0D]) 0x2A))).any (fun t => t.st ≠ .acc) = true := by
    decide
  obtain ⟨t, ht, hs⟩ := Option.any_eq_true _ _ |>.1 h
  exact ⟨t, by decide, next_of_some ht, by simpa using hs⟩

/-- A state in the middle of a header meets the invariant. -/
theorem inv_accumulating : (offering (accumulating [3, 0x0A, 0x10]) 0xB5).Inv where
  legal := by decide +kernel
  bufWf := by decide
  bufBelow := by decide
  cntZero := by decide
  defined := by
    intro _ a ha
    have h : ∀ a < 3, ((accumulating [3, 0x0A, 0x10]).buf.read a).isSome = true := by decide
    exact Option.isSome_iff_exists.1 (h a ha)
  bounded := fun _ => .inl (by decide)
  notBusy := by decide
  noPending := by decide

theorem witness_InvKeptByEveryStep : ∃ t, (offering (accumulating [3, 0x0A, 0x10]) 0xB5).Inv ∧
    step (offering (accumulating [3, 0x0A, 0x10]) 0xB5) = .next t := by
  obtain ⟨t, ht⟩ := next_of_isSome (o := step (offering (accumulating [3, 0x0A, 0x10]) 0xB5)) (by decide)
  exact ⟨t, inv_accumulating, ht⟩

/-- The least buffer. -/
theorem witness_ResetMeetsInv : ({ defaultParams with bufCap := 6 } : Params).legal = true := by decide +kernel

theorem witness_NoInputHaltsTheBlock : (offering (accumulating [3, 0x0A, 0x10]) 0xB5).Inv ∧
    (offering (accumulating [3, 0x0A, 0x10]) 0xB5).op = none := ⟨inv_accumulating, rfl⟩

/-- V1.2, first row; and the empty payload in the least buffer. -/
theorem witness_FrameRoundTrip :
    (let s : State := { State.reset with inq := offered (frameBytes 1 2 [1]) ++ [.byte 0] }
     s.ready ∧ s.st = .idle ∧ s.par.bufCap ≤ 65541 ∧ [(1 : Byte)].length + 6 ≤ s.par.bufCap ∧
      s.inq = offered (frameBytes 1 2 [1]) ++ [.byte 0]) ∧
    (let s : State := { State.reset with par := { defaultParams with bufCap := 6 }, inq := offered (frameBytes 3 10 []) }
     s.ready ∧ s.st = .idle ∧ s.par.bufCap ≤ 65541 ∧ ([] : List Byte).length + 6 ≤ s.par.bufCap ∧
      s.inq = offered (frameBytes 3 10 []) ++ []) ∧
    frameBytes 1 2 [1] = [0xB5, 0x62, 1, 2, 1, 0, 1, 5, 0x11] := by
  unfold State.ready
  decide

theorem witness_StreamSplitLaw : State.reset.ready ∧
    Reaches ([0xB5] : List Byte).length { State.reset with inq := offered [0xB5] } { State.reset with st := .seen1 } :=
  ⟨⟨rfl, rfl, rfl, rfl⟩, rfl⟩

theorem witness_ResetFromAnyState :
    (({ accumulating [3] with inq := [.rst true] } : State).ready) ∧
    (({ accumulating [3] with rst := true, inq := offered [0x62] ++ .rst false :: [] } : State).rst = true) ∧
    (∀ l, Input.rst l ∉ ({ accumulating [3] with rst := true, inq := [.byte 0x62] } : State).inq) := by
  unfold State.ready
  decide

theorem witness_ResetInsideAStepDeliversAPrefix : ∃ t,
    (let s : State := { accumulating [3, 0x0A, 0, 0, 0x0D] with inq := [.byteRst 0x2A 1] }
     s.ready ∧ s.inq = .byteRst 0x2A 1 :: [] ∧ decodeByte (byteKey s.st 0x2A) = .ok (.syncAccAppend 0x2A) ∧
      exec (.syncAccAppend 0x2A) { s with inq := [] } = .next t) := by
  obtain ⟨t, ht⟩ := next_of_isSome (o := exec (.syncAccAppend 0x2A) (accumulating [3, 0x0A, 0, 0, 0x0D])) (by decide)
  exact ⟨t, ⟨rfl, rfl, rfl, rfl⟩, rfl, by decide, ht⟩

theorem witness_NothingOfferedNothingHappens : State.reset.op = none ∧ State.reset.inq = [] := by decide

theorem witness_StepRunsTheDecodedOperation :
    (let s := offering State.reset 0xB5
     s.rst = false ∧ s.busy = false ∧ s.op = none ∧ s.inq = .byte 0xB5 :: [] ∧
      decodeByte (byteKey s.st 0xB5) = .ok .syncIdleHit) ∧
    (let s : State := { raw [6] with op := some (.raw 6) }
     s.rst = false ∧ s.op = some (.raw 6) ∧ decodeInner (.raw 6) = .ok .rawT6) := by decide

theorem witness_EveryEncodedOperationDecodesBack :
    (Instr.bfU 216 24).wf = true ∧ (Instr.bfS 239 1).wf = true ∧ (Instr.ignore 0x03 0x0B).wf = true ∧
    (Instr.sfBad 6).wf = true := by decide

theorem witness_EveryKeyHasOneMeaning :
    decodeByte 767 = .ok (.syncAccAppend 0xFF) ∧ decodeReader 4 0xFFFF 255 63 = .ok (.rdI64 0xFFFF) ∧
    decodeReader 6 7 216 24 = .ok (.bfS 216 24) ∧ decodeReader 5 0 217 24 = .ok (.bfU 217 24) := by decide

/-- Each read ending exactly at the payload's end, and one byte past it. -/
theorem witness_UnsignedReads :
    (10 : BitVec 16).toNat + 1 ≤ (raw readerPayload).pay.length ∧
    (raw readerPayload).pay.length < (11 : BitVec 16).toNat + 1 ∧
    (9 : BitVec 16).toNat + 2 ≤ (raw readerPayload).pay.length ∧
    (raw readerPayload).pay.length < (10 : BitVec 16).toNat + 2 ∧
    (7 : BitVec 16).toNat + 4 ≤ (raw readerPayload).pay.length ∧
    (raw readerPayload).pay.length < (8 : BitVec 16).toNat + 4 := by decide

theorem witness_SignedReads :
    (7 : BitVec 16).toNat + 4 ≤ (raw readerPayload).pay.length ∧
    (raw readerPayload).pay.length < (8 : BitVec 16).toNat + 4 ∧
    (3 : BitVec 16).toNat + 8 ≤ (raw readerPayload).pay.length ∧
    (raw readerPayload).pay.length < (4 : BitVec 16).toNat + 8 := by decide

theorem witness_UnsignedBitField :
    1 ≤ (24 : BitVec 6).toNat ∧ (24 : BitVec 6).toNat ≤ 24 ∧
    (216 : BitVec 8).toNat + (24 : BitVec 6).toNat ≤ 240 := by decide

theorem witness_SignedBitField :
    1 ≤ (1 : BitVec 6).toNat ∧ (1 : BitVec 6).toNat ≤ 24 ∧
    (239 : BitVec 8).toNat + (1 : BitVec 6).toNat ≤ 240 := by decide

theorem witness_WiderReadIsTheNarrowerReadsJoined : memRead readerPayload 7 (1 + 3) = .ok 0xFFFFFF80 := by decide

theorem witness_TrkRawSelectsByDiscriminator : (raw []).pay = [] ∧ (raw [6]).pay = 6 :: [] := by decide

theorem witness_TrkNavSelectsByConstellation :
    (nav [0]).par.legal = true ∧ (nav [0]).pay.length ≤ (nav [0]).par.navGnssOff ∧
    (nav [0, 6]).par.legal = true ∧ (nav [0, 6]).par.navGnssOff < (nav [0, 6]).pay.length := by decide +kernel

theorem witness_OtherPairsAreIgnored :
    ((0x0A, 0x03) : Byte × Byte) ≠ (0x03, 0x0A) ∧ ((0x0A, 0x03) : Byte × Byte) ≠ (0x03, 0x0F) := by decide

/-- An operation that takes the exception, and one that emits a record. -/
theorem witness_DecodeIsAllOrNothing :
    (∃ t, Inner (.sfBad 7) ∧ exec (.sfBad 7) frm1 = .next t) ∧ ∃ t, Inner .sf1 ∧ exec .sf1 frm1 = .next t :=
  ⟨⟨_, ⟨_, rfl⟩, rfl⟩, _, ⟨_, rfl⟩, rfl⟩

theorem witness_InnerOperationsFrame : ∃ t, Inner .rawT6 ∧ exec .rawT6 (raw hdr) = .next t :=
  ⟨_, ⟨_, rfl⟩, rfl⟩

theorem witness_OnlyAppendWritesTheBuffer : ∃ t, exec (.syncAccAppend 7) (accumulating [3]) = .next t ∧
    t.buf.read 1 ≠ (accumulating [3]).buf.read 1 := by
  have h : (nextOf (exec (.syncAccAppend 7) (accumulating [3]))).any
      (fun t => t.buf.read 1 ≠ (accumulating [3]).buf.read 1) = true := by decide
  obtain ⟨t, ht, hs⟩ := Option.any_eq_true _ _ |>.1 h
  exact ⟨t, next_of_some ht, by simpa using hs⟩

theorem witness_ParametersNeverChange : ∃ t, step (offering State.reset 0xB5) = .next t := ⟨_, rfl⟩

theorem witness_EventsLeaveInOrder : ∃ t, (offering (accumulating [3, 0x0A, 0, 0, 0x0D]) 0x2A).ready ∧
    step (offering (accumulating [3, 0x0A, 0, 0, 0x0D]) 0x2A) = .next t := by
  obtain ⟨t, ht⟩ := next_of_isSome (o := step (offering (accumulating [3, 0x0A, 0, 0, 0x0D]) 0x2A)) (by decide)
  exact ⟨t, ⟨rfl, rfl, rfl, rfl⟩, ht⟩

theorem witness_OtherDiscriminatorsEmitNothing : (0x86 : Byte) ≠ 6 := by decide

theorem witness_RawHeaderCheck : (raw (6 :: zeros 78)).pay.length < 80 ∧ (raw hdr).pay.length = 80 := by decide

theorem witness_BlocksAreEveryStartBelowL : 80 ≤ 80 ∧ 80 ≤ 81 ∧ 80 ≤ 144 := by decide

/-- One block, of a quality below 4. -/
theorem witness_NoGpsReferenceNoOutput :
    80 ≤ (raw (hdr ++ blk 0 1 3 0 0)).pay.length ∧
    (∀ o ∈ blockOffsets (raw (hdr ++ blk 0 1 3 0 0)).pay,
      pass1Readable (raw (hdr ++ blk 0 1 3 0 0)).par (raw (hdr ++ blk 0 1 3 0 0)).pay o) ∧
    (∀ o ∈ blockOffsets (raw (hdr ++ blk 0 1 3 0 0)).pay,
      gpsCandidate (raw (hdr ++ blk 0 1 3 0 0)).par (raw (hdr ++ blk 0 1 3 0 0)).pay o = false) := by
  unfold pass1Readable
  decide +kernel

/-- A message of two blocks, the second with a carrier phase. -/
def twoBlocks : List Byte := hdr ++ blk 1 120 4 0x10 0 ++ blk 0 1 7 0x28 1

theorem decodable_twoBlocks : Decodable defaultParams twoBlocks where
  header := by decide +kernel
  pass1 := by unfold pass1Readable; decide +kernel
  pass2 := by unfold pass2Readable; decide +kernel
  reference := ⟨144, by decide +kernel, by decide +kernel⟩

/-- A last block that ends where its last read field does: the satellite byte at +57, of quality 4. -/
theorem decodable_shortBlock : Decodable defaultParams (hdr ++ (blk 0 1 4 0 0).take 58) where
  header := by decide +kernel
  pass1 := by unfold pass1Readable; decide +kernel
  pass2 := by unfold pass2Readable; decide +kernel
  reference := ⟨80, by decide +kernel, by decide +kernel⟩

theorem witness_RawRecordsOfQualifyingBlocks : Decodable (raw twoBlocks).par (raw twoBlocks).pay := decodable_twoBlocks

theorem witness_RawDerivedFields : ∃ t, Decodable (raw twoBlocks).par (raw twoBlocks).pay ∧
    exec .rawT6 (raw twoBlocks) = .next t := ⟨_, decodable_twoBlocks, rfl⟩

theorem witness_RawExactFields : ∃ t, (exactly (raw twoBlocks)).par.numerics = .exact ∧
    Decodable (exactly (raw twoBlocks)).par (exactly (raw twoBlocks)).pay ∧
    exec .rawT6 (exactly (raw twoBlocks)) = .next t :=
  ⟨_, rfl, ⟨by decide +kernel, by unfold pass1Readable; decide +kernel, by unfold pass2Readable; decide +kernel,
    144, by decide +kernel, by decide +kernel⟩, rfl⟩

/-- A `C_LIGHT` that is no rational, under both `NUMERICS`; and a real for each kind of `C_LIGHT`. -/
theorem witness_RawDerivedFields_light :
    (∃ t, Decodable (lit (raw twoBlocks)).par (lit (raw twoBlocks)).pay ∧
      exec .rawT6 (lit (raw twoBlocks)) = .next t) ∧
    (lit (raw twoBlocks)).par.numerics = .binary64 ∧ (lit (exactly (raw twoBlocks))).par.numerics = .exact ∧
    (∃ t, Decodable (lit (exactly (raw twoBlocks))).par (lit (exactly (raw twoBlocks))).pay ∧
      exec .rawT6 (lit (exactly (raw twoBlocks))) = .next t) ∧
    IsLightSpeed (lit (raw twoBlocks)).par.cLight (Real.sqrt 2) ∧ IsLightSpeed defaultParams.cLight 299792458 :=
  ⟨⟨_, ⟨by decide +kernel, by unfold pass1Readable; decide +kernel, by unfold pass2Readable; decide +kernel,
      144, by decide +kernel, by decide +kernel⟩, rfl⟩, rfl, rfl,
   ⟨_, ⟨by decide +kernel, by unfold pass1Readable; decide +kernel, by unfold pass2Readable; decide +kernel,
      144, by decide +kernel, by decide +kernel⟩, rfl⟩, irrational_sqrt_two, by simp [IsLightSpeed, defaultParams]⟩

/-- Under `BINARY64`, the default. -/
theorem witness_ReferenceTimeIsTheSnappedMaximum_binary64 : ∃ t,
    Decodable (raw twoBlocks).par (raw twoBlocks).pay ∧ exec .rawT6 (raw twoBlocks) = .next t :=
  ⟨_, decodable_twoBlocks, rfl⟩

theorem witness_ReferenceTimeIsTheSnappedMaximum : ∃ t, (exactly (raw twoBlocks)).par.numerics = .exact ∧
    Decodable (exactly (raw twoBlocks)).par (exactly (raw twoBlocks)).pay ∧
    exec .rawT6 (exactly (raw twoBlocks)) = .next t := witness_RawExactFields

/-- The records of the emitted events. -/
def recordsOf (es : List Event) : List Obs :=
  es.filterMap (fun e => match e with
    | .frame _ => none
    | .obs o => some o
    | .nav _ => none
    | .err _ => none)

theorem witness_RecordsAreEmittedSorted : ∃ (t : State) (os : List Obs),
    exec .rawT6 (exactly (raw twoBlocks)) = .next t ∧ os ≠ [] ∧
    t.evq = (exactly (raw twoBlocks)).evq ++ os.map Event.obs := by
  have h : (nextOf (exec .rawT6 (exactly (raw twoBlocks)))).any
      (fun t => recordsOf t.evq ≠ [] ∧ t.evq = [] ++ (recordsOf t.evq).map Event.obs) = true := by decide +kernel
  obtain ⟨t, ht, hs⟩ := Option.any_eq_true _ _ |>.1 h
  have hs : recordsOf t.evq ≠ [] ∧ t.evq = [] ++ (recordsOf t.evq).map Event.obs := of_decide_eq_true hs
  exact ⟨t, recordsOf t.evq, next_of_some ht, hs.1, hs.2⟩

/-- The three ways of V2.5: one byte and 41 bytes of the block, 42 and 56 bytes, 57 bytes. -/
theorem witness_PartialLastBlock :
    (80 = 80 + 64 * 0 ∧ 80 < (raw (hdr ++ (blk 0 1 4 0 0).take 1)).pay.length ∧
      (raw (hdr ++ (blk 0 1 4 0 0).take 41)).pay.length < 80 + 42 ∧
      (raw (hdr ++ (blk 0 1 4 0 0).take 41)).pay.length ≤ 65535 ∧ (raw hdr).par.blk = defaultBlk) ∧
    (80 + 42 ≤ (raw (hdr ++ (blk 0 1 4 0 0).take 42)).pay.length ∧
      4 ≤ qualityAt defaultParams (raw (hdr ++ (blk 0 1 4 0 0).take 42)).pay 80 ∧
      (raw (hdr ++ (blk 0 1 4 0 0).take 56)).pay.length ≤ 80 + 56 ∧
      4 ≤ qualityAt defaultParams (raw (hdr ++ (blk 0 1 4 0 0).take 56)).pay 80) ∧
    ((raw (hdr ++ (blk 0 1 4 0 0).take 57)).pay.length = 80 + 57 ∧
      4 ≤ qualityAt defaultParams (raw (hdr ++ (blk 0 1 4 0 0).take 57)).pay 80 ∧
      80 ∈ blockOffsets (raw (hdr ++ (blk 0 1 4 0 0).take 57)).pay ∧
      gpsCandidate defaultParams (raw (hdr ++ (blk 0 1 4 0 0).take 57)).pay 80 = true) := by decide +kernel

/-- The least buffer, with LMAX and MAX_OBS both 0; a byte offered. -/
theorem witness_StoreNeverOverflows_step :
    let s : State := { State.reset with par := { defaultParams with bufCap := 6 }, inq := [.byte 0xB5] }
    s.Inv ∧ s.pay.length = lmax s.par ∧ s.store.length = maxObs s.par ∧ ∃ t, step s = .next t :=
  ⟨⟨by decide +kernel, by decide, by decide, by decide, nofun, nofun, rfl, rfl⟩, rfl, rfl, _, rfl⟩

theorem witness_StoreNeverOverflows : ∃ t, (raw twoBlocks).pay.length ≤ lmax (raw twoBlocks).par ∧
    (raw twoBlocks).store.length ≤ maxObs (raw twoBlocks).par ∧ exec .rawT6 (raw twoBlocks) = .next t :=
  ⟨_, by decide +kernel, by decide +kernel, rfl⟩

theorem witness_DecodersAreStateless :
    let s := raw twoBlocks
    let s' : State := { s with frm := 1, trValid := true, cnt := 5, inq := [.byte 7] }
    Instr.rawT6 ∈ [Instr.trkRaw, .trkNav, .rawT6, .navGps] ∧ s'.par = s.par ∧ s'.cls = s.cls ∧ s'.id = s.id ∧
      s'.pay = s.pay :=
  ⟨by decide, rfl, rfl, rfl, rfl⟩

theorem witness_WeekWrapAdjustsOnce : |(907200 : Rat)| ≤ 907200 ∧ |(-302400 : Rat)| ≤ 302400 := by
  constructor <;> norm_num

theorem witness_DopplerAndSnrAreExact : (-2 ^ 31 : Int) ≤ -2 ^ 31 ∧ (2 ^ 31 - 1 : Int) < 2 ^ 31 ∧ 65535 < 65536 := by
  decide

/-- Both raw phases whose `adr` is 0, and the bounds of a raw phase. -/
theorem witness_ZeroPhaseIsNegativeZero :
    (-2 ^ 63 : Int) ≤ 0 ∧ (0 : Int) < 2 ^ 63 ∧ (adrOf .binary64 0 false).val = .fin false 0 ∧
    (-2 ^ 63 : Int) ≤ -2 ^ 31 ∧ (-2 ^ 31 : Int) < 2 ^ 63 ∧ (adrOf .binary64 (-2 ^ 31) true).val = .fin false 0 ∧
    (adrOf .exact 0 false).val = .fin false 0 ∧ (adrOf .exact (-2 ^ 31) true).val = .fin false 0 ∧
    (-2 ^ 63 : Int) ≤ -2 ^ 63 ∧ (2 ^ 63 - 1 : Int) < 2 ^ 63 := by decide +kernel

/-- A third; the largest finite word. -/
theorem witness_RoundingIsToNearestEven :
    ((1 / 3 : Rat) ≠ 0 ∧ |(1 / 3 : Rat)| < 2 ^ 1024 - 2 ^ 970) ∧
    ((2 ^ 1024 - 2 ^ 971 : Rat) ≠ 0 ∧ |(2 ^ 1024 - 2 ^ 971 : Rat)| < 2 ^ 1024 - 2 ^ 970) := by
  decide +kernel

/-- Minus zero, one, the least positive word. -/
theorem witness_RoundingKeepsEveryFiniteWord :
    wordVal 0x8000000000000000 = .fin true 0 ∧ wordVal 0x3FF0000000000000 = .fin false 1 ∧
    wordVal 1 = .fin false (pow2 (-1074)) := by decide +kernel

theorem witness_OtherConstellationsEmitNothing : (6 : Byte) ≠ 0 := by decide

theorem witness_ShortNavPayloadNamesTheFirstMissingWord :
    (nav (zeros 52)).pay.length < 53 ∧ (nav []).pay.length < 53 := by decide

theorem witness_NavGpsReassemblesAndSelects :
    53 ≤ (nav (zeros 53)).pay.length ∧ (nav (zeros 53)).par.sf.sfid + 3 ≤ 240 := by decide

theorem witness_Subframe1EmitsItsFields :
    checkSf frm1.par.sf = true ∧ checkSf { frm1.par.sf with af0Raw := 218 } = true := by decide

theorem witness_BadSubframeIdIsReported : ((7 : BitVec 3) = 0 ∨ (7 : BitVec 3) = 6 ∨ (7 : BitVec 3) = 7) := by decide

/-- `NAVP1` with bit 5 of its first word, bit 31 of its last and an unread byte changed. -/
theorem witness_NavIgnoresParityAndUnreadBytes :
    let s := nav (navp1 0xE1)
    let P := 0xFF :: (navp1 0xE1 ++ [0xFF]).tail
    let P := P.set 13 0x0A
    let P := P.set 52 0x1F
    53 ≤ s.pay.length ∧ 53 ≤ P.length ∧ P ≠ s.pay ∧ (∀ i < 10, dataAt P i = dataAt s.pay i) := by decide +kernel

end Sys2Proof.Tests
end

section
/-! PROOFS. The capacities of 00_scope.md R8: every operation keeps the payload within `LMAX` and the observation
store within `MAX_OBS`. -/

namespace Sys2Proof.Machine

/-- The payload fits `LMAX` and the observation store fits `MAX_OBS` (00_scope.md R8). -/
def State.WithinCapacity (s : State) : Prop := s.pay.length ≤ lmax s.par ∧ s.store.length ≤ maxObs s.par

namespace State.WithinCapacity

variable {s : State}

theorem of_empty (hpay : s.pay = []) (hstore : s.store = []) : s.WithinCapacity := by
  simp [State.WithinCapacity, hpay, hstore]

theorem raise (h : s.WithinCapacity) (e : Exc) : (s.raise e).WithinCapacity := ⟨h.1, Nat.zero_le _⟩

theorem emit (h : s.WithinCapacity) (evs : List Event) : (s.emit evs).WithinCapacity := h

theorem setFrm (h : s.WithinCapacity) (F : BitVec 240) : (s.setFrm F).WithinCapacity := h

theorem setTr (h : s.WithinCapacity) (v : Scalar) : (s.setTr v).WithinCapacity := h

theorem setRd (h : s.WithinCapacity) (v : Int) : (s.setRd v).WithinCapacity := h

theorem setSync (h : s.WithinCapacity) (v : SyncState) (c : BitVec 17) : (s.setSync v c).WithinCapacity := h

theorem setInq (h : s.WithinCapacity) (is : List Input) : (s.setInq is).WithinCapacity := h

theorem clearOp (h : s.WithinCapacity) : s.clearOp.WithinCapacity := h

theorem deliver (h : s.WithinCapacity) : s.deliver.WithinCapacity := h

theorem endMessage (h : s.WithinCapacity) : s.endMessage.WithinCapacity := h

theorem afterReset (s : State) (level : Bool) : (s.afterReset level).WithinCapacity := of_empty rfl rfl

theorem beginMessage {pay : List Byte} (h : pay.length ≤ lmax s.par) (cls id : Byte) :
    (s.beginMessage cls id pay).WithinCapacity := ⟨h, Nat.zero_le _⟩

end State.WithinCapacity

/-- Pass 2 gives one record a block at most, and a payload of at most `LMAX` bytes has at most `MAX_OBS` blocks. -/
theorem pass2_length_le_maxObs {par : Params} {P : List Byte} {v : Scalar} {S : List Obs}
    (hP : P.length ≤ lmax par) (h : pass2 par P v (blockStarts P.length) = .ok S) : S.length ≤ maxObs par :=
  calc S.length ≤ (blockStarts P.length).length := collect_length_le h
    _ = numBlocks P.length := by simp [blockStarts]
    _ ≤ maxObs par := Nat.div_le_div_right (by omega)

theorem State.WithinCapacity.setStore {s : State} (h : s.WithinCapacity) {v : Scalar} {S : List Obs}
    (hS : pass2 s.par s.pay v (blockStarts s.pay.length) = .ok S) : (s.setStore S).WithinCapacity :=
  ⟨h.1, pass2_length_le_maxObs h.1 hS⟩

theorem rawDecode_withinCapacity {s : State} (h : s.WithinCapacity) : (rawDecode s).WithinCapacity := by
  rcases rawDecode_cases s with ⟨e, he⟩ | hs | ⟨v, e, he⟩ | ⟨v, S, hS, he⟩
  · exact he ▸ h.raise e
  · exact hs.symm ▸ h
  · exact he ▸ (h.setTr v).raise e
  · exact he ▸ ((h.setTr v).setStore hS).emit _

/-- An outcome's next state, where there is one, is within the capacities. -/
def KeepsCapacity (o : Host.Outcome State Fault Refusal) : Prop := ∀ t, o = .next t → t.WithinCapacity

@[simp] theorem keepsCapacity_next {t : State} : KeepsCapacity (.next t) ↔ t.WithinCapacity :=
  ⟨fun h => h t rfl, fun h _ ht => (Host.Outcome.next.inj ht) ▸ h⟩

@[simp] theorem keepsCapacity_fault (f : Fault) : KeepsCapacity (.fault f) := by rintro _ ⟨⟩

@[simp] theorem keepsCapacity_refused (r : Refusal) : KeepsCapacity (.refused r) := by rintro _ ⟨⟩

theorem KeepsCapacity.onNext {f : State → State} {o : Host.Outcome State Fault Refusal} (ho : KeepsCapacity o)
    (hf : ∀ u : State, u.WithinCapacity → (f u).WithinCapacity) : KeepsCapacity (onNext f o) := by
  intro t ht
  obtain ⟨u, hu, rfl⟩ := onNext_eq_next.1 ht
  exact hf u (ho u hu)

section Decoders

variable {s : State} (h : s.WithinCapacity)
include h

theorem execNavGps_keepsCapacity : KeepsCapacity (execNavGps s) := by
  rcases execNavGps_cases s with ⟨e, he⟩ | ⟨F, hF⟩
  · simpa [he] using h.raise e
  · rcases selectSubframe_cases (s.setFrm F) with ⟨x, hx⟩ | ⟨n, hn⟩
    · simpa [hF, hx] using (h.setFrm F).raise _
    · simpa [hF, hn] using (h.setFrm F).emit _

theorem execTrkRaw_keepsCapacity : KeepsCapacity (execTrkRaw s) := by
  rcases execTrkRaw_cases s with ⟨e, he⟩ | he | he
  · simpa [he] using h.raise e
  · simpa [he, execRawT6] using rawDecode_withinCapacity h
  · simpa [he] using h

theorem execTrkNav_keepsCapacity : KeepsCapacity (execTrkNav s) := by
  rcases execTrkNav_cases s with ⟨e, he⟩ | he | he
  · simpa [he] using h.raise e
  · simpa [he] using execNavGps_keepsCapacity h
  · simpa [he] using h

theorem dispatchMessage_keepsCapacity : KeepsCapacity (dispatchMessage s) := by
  rcases dispatchMessage_cases s with he | he | he
  · simpa [he] using execTrkRaw_keepsCapacity h
  · simpa [he] using execTrkNav_keepsCapacity h
  · simpa [he] using h

theorem readerResult_withinCapacity (r : Except Exc Int) : (readerResult s r).WithinCapacity := by
  rcases readerResult_cases s r with ⟨v, hv⟩ | ⟨e, he⟩
  · exact hv ▸ h.setRd v
  · exact he ▸ h.raise e

/-- A frame's payload is no longer than its declared length, so a completed frame of at most `BUF_CAP` bytes brings
a payload of at most `LMAX`. -/
theorem complete_keepsCapacity {L : Nat} (hL : L + 6 ≤ s.par.bufCap) : KeepsCapacity (complete s L) := by
  unfold complete
  split
  · exact keepsCapacity_fault _
  · rename_i bs _
    have hpay : (frameOf bs L).payload.length ≤ lmax s.par := by
      have : (frameOf bs L).payload.length ≤ L := List.length_take_le _ _
      unfold lmax
      omega
    rcases handOn_cases (s.setSync .idle 0) (frameOf bs L) with ⟨_, _, he⟩ | ⟨_, he⟩
    · exact he ▸ keepsCapacity_next.2 (h.setSync .idle 0)
    · rw [he]
      have hbegin := State.WithinCapacity.beginMessage (s := s.setSync .idle 0) hpay
        (frameOf bs L).cls (frameOf bs L).id
      exact (dispatchMessage_keepsCapacity (hbegin.emit _)).onNext fun _ hu => hu.endMessage

theorem afterAppend_keepsCapacity {c : Nat} (hc : c ≤ s.par.bufCap) : KeepsCapacity (afterAppend s c) := by
  rcases afterAppend_cases s c with ⟨_, he⟩ | ⟨_, ⟨e, _, he⟩ | ⟨L, _, ⟨_, _, he⟩ | ⟨_, hcL, he⟩ | ⟨_, _, he⟩⟩⟩
  · simpa [he] using h
  · simp [he]
  · simpa [he] using h.setSync .idle 0
  · exact he ▸ complete_keepsCapacity h (hcL ▸ hc)
  · simpa [he] using h

/-- The append has no effect on the message; the byte that completes a frame stands below `BUF_CAP`, as the guard of
the write makes sure. -/
theorem execSyncAccAppend_keepsCapacity (b : Byte) : KeepsCapacity (execSyncAccAppend b s) := by
  rcases execSyncAccAppend_cases b s with ⟨_, he⟩ | ⟨hcnt, he⟩
  · simp [he]
  · have hwrite : ({ s with buf := s.buf.write s.cnt.toNat b } : State).WithinCapacity := h
    exact he ▸ afterAppend_keepsCapacity (hwrite.setSync _ _) hcnt

/-- Every operation keeps the capacities, in any state. -/
theorem exec_keepsCapacity (i : Instr) : KeepsCapacity (exec i s) := by
  cases i with
  | syncIdleHit => exact keepsCapacity_next.2 (h.setSync _ _)
  | syncIdleMiss b => exact keepsCapacity_next.2 h
  | syncSeen1Hit => exact keepsCapacity_next.2 (h.setSync _ _)
  | syncSeen1Miss b => exact keepsCapacity_next.2 (h.setSync _ _)
  | syncAccAppend b => exact execSyncAccAppend_keepsCapacity h b
  | trkRaw => exact execTrkRaw_keepsCapacity h
  | trkNav => exact execTrkNav_keepsCapacity h
  | ignore c i => exact keepsCapacity_next.2 h
  | rawT6 => exact keepsCapacity_next.2 (rawDecode_withinCapacity h)
  | rawOther t => exact keepsCapacity_next.2 h
  | navGps => exact execNavGps_keepsCapacity h
  | navOther g => exact keepsCapacity_next.2 h
  | sf1 => exact keepsCapacity_next.2 (h.emit _)
  | sf23 lo => exact keepsCapacity_next.2 (h.emit _)
  | sf45 lo => exact keepsCapacity_next.2 (h.emit _)
  | sfBad x => exact keepsCapacity_next.2 (h.raise _)
  | rdU8 off => exact keepsCapacity_next.2 (readerResult_withinCapacity h _)
  | rdU16 off => exact keepsCapacity_next.2 (readerResult_withinCapacity h _)
  | rdU32 off => exact keepsCapacity_next.2 (readerResult_withinCapacity h _)
  | rdI32 off => exact keepsCapacity_next.2 (readerResult_withinCapacity h _)
  | rdI64 off => exact keepsCapacity_next.2 (readerResult_withinCapacity h _)
  | bfU a n => exact keepsCapacity_next.2 (h.setRd _)
  | bfS a n => exact keepsCapacity_next.2 (h.setRd _)

theorem runKey_keepsCapacity (k : Except Reject Instr) : KeepsCapacity (runKey k s) := by
  cases k with
  | ok i => exact exec_keepsCapacity h i
  | error r => exact keepsCapacity_refused _

theorem moveRst_withinCapacity (level : Bool) : (s.moveRst level).WithinCapacity := by
  unfold State.moveRst
  split
  · exact .afterReset s level
  · exact h

theorem waitRst_withinCapacity : s.waitRst.WithinCapacity := by
  rcases waitRst_cases s with he | ⟨level, rest, _, he | he⟩
  · exact he.symm ▸ h
  · exact he ▸ .afterReset _ level
  · exact he ▸ h.setInq rest

theorem takeMove_keepsCapacity : KeepsCapacity (takeMove s) := by
  unfold takeMove
  split
  · exact keepsCapacity_next.2 h
  · exact (runKey_keepsCapacity (h.setInq _) _).onNext fun _ hu => hu.deliver
  · exact (runKey_keepsCapacity (h.setInq _) _).onNext fun _ _ => .afterReset _ true
  · exact keepsCapacity_next.2 (moveRst_withinCapacity (h.setInq _) _)

theorem step_keepsCapacity : KeepsCapacity (step s) := by
  rcases step_cases s with ⟨_, he⟩ | ⟨_, k, _, he⟩ | ⟨_, _, _, he⟩ | ⟨_, _, _, he⟩
  · exact he ▸ keepsCapacity_next.2 (waitRst_withinCapacity h)
  · exact he ▸ (runKey_keepsCapacity h.clearOp _).onNext fun _ hu => hu.deliver
  · exact he ▸ keepsCapacity_next.2 (waitRst_withinCapacity h)
  · exact he ▸ takeMove_keepsCapacity h

end Decoders

/-- No operation of the decoder changes the parameters, so its capacity is the one it started with. -/
theorem rawDecode_par (s : State) : (rawDecode s).par = s.par := by
  rcases rawDecode_cases s with ⟨e, he⟩ | he | ⟨v, e, he⟩ | ⟨v, S, _, he⟩ <;> simp [he]

/-- Settles O47: the capacities hold at reset, every step keeps them, and `RAW.T6` is one of the operations that do.
The step needs no more of the invariant than the capacities themselves. -/
theorem storeNeverOverflows : Obligations.StoreNeverOverflows := by
  refine ⟨fun par => ⟨Nat.zero_le _, Nat.zero_le _⟩, fun s t _ hpay hstore hstep => ?_, fun s t hpay hstore hexec => ?_⟩
  · exact step_keepsCapacity ⟨hpay, hstore⟩ t hstep
  · obtain rfl : rawDecode s = t := Host.Outcome.next.inj hexec
    have hcap : (rawDecode s).WithinCapacity := rawDecode_withinCapacity ⟨hpay, hstore⟩
    exact rawDecode_par s ▸ hcap.2

end Sys2Proof.Machine
end

section
/-! PROOFS. What a finite binary64 word holds (00_scope.md R15, log 13): a sign and a magnitude, which is a whole
number of units in the last place. -/

namespace Sys2Proof.Machine

theorem pow2_eq_zpow (k : Int) : pow2 k = (2 : Rat) ^ k := by
  unfold pow2
  split
  · rename_i hk
    lift k to Nat using hk
    simp
  · rename_i hk
    obtain ⟨j, rfl⟩ : ∃ j : Nat, k = -j := ⟨(-k).toNat, by omega⟩
    simp [Rat.mkRat_eq_div]

/-- The unit in the last place at binade `E`, binade 0 being that of the subnormals. -/
def ulp (E : Nat) : Rat := 2 ^ ((E : Int) - 1074)

theorem ulp_pos (E : Nat) : 0 < ulp E := zpow_pos (by norm_num) _

theorem ulp_add (E j : Nat) : ulp (E + j) = 2 ^ j * ulp E := by
  rw [ulp, ulp, ← zpow_natCast, ← zpow_add₀ (by norm_num)]
  push_cast
  ring_nf

theorem ulp_succ (E : Nat) : ulp (E + 1) = 2 * ulp E := by simpa using ulp_add E 1

theorem ulp_mono {E E' : Nat} (h : E ≤ E') : ulp E ≤ ulp E' :=
  zpow_le_zpow_right₀ (by norm_num) (by omega)

/-- The binade of a magnitude: its exponent field less 1, the subnormals sharing that of field 1. -/
def gridExp (x : Nat) : Nat := x / 2 ^ 52 - 1

/-- The significand of a magnitude, the implicit bit included. -/
def gridSig (x : Nat) : Nat := x - gridExp x * 2 ^ 52

/-- The value of a magnitude, the low 63 bits of a finite word. -/
def magVal (x : Nat) : Rat := gridSig x * ulp (gridExp x)

theorem gridSig_add_gridExp (x : Nat) : gridExp x * 2 ^ 52 + gridSig x = x := by
  unfold gridSig gridExp
  omega

theorem gridSig_lt (x : Nat) : gridSig x < 2 ^ 53 := by
  unfold gridSig gridExp
  omega

theorem gridExp_eq_zero_or_le_gridSig (x : Nat) : gridExp x = 0 ∨ 2 ^ 52 ≤ gridSig x := by
  unfold gridSig gridExp
  omega

theorem magVal_nonneg (x : Nat) : 0 ≤ magVal x := mul_nonneg (Nat.cast_nonneg _) (ulp_pos _).le

/-- Exponent and fraction fields laid side by side: a significand of `2^53` carries into the next binade, where it
stands for the same value. -/
theorem magVal_of_grid {E m : Nat} (hm : E = 0 ∨ 2 ^ 52 ≤ m) (hm' : m ≤ 2 ^ 53) :
    magVal (E * 2 ^ 52 + m) = m * ulp E := by
  rcases hm'.lt_or_eq with hlt | rfl
  · have hE : gridExp (E * 2 ^ 52 + m) = E := by
      unfold gridExp
      omega
    rw [magVal, gridSig, hE, Nat.add_sub_cancel_left]
  · have hE : gridExp (E * 2 ^ 52 + 2 ^ 53) = E + 1 := by
      unfold gridExp
      omega
    have hs : gridSig (E * 2 ^ 52 + 2 ^ 53) = 2 ^ 52 := by
      rw [gridSig, hE]
      omega
    rw [magVal, hE, hs, ulp_succ]
    push_cast
    ring

theorem magVal_lt_succ (x : Nat) : magVal x < magVal (x + 1) := by
  have hsucc : magVal (x + 1) = (gridSig x + 1 : Nat) * ulp (gridExp x) := by
    conv_lhs => rw [← gridSig_add_gridExp x, Nat.add_assoc]
    exact magVal_of_grid ((gridExp_eq_zero_or_le_gridSig x).imp_right (by omega)) (gridSig_lt x)
  rw [hsucc, magVal]
  exact mul_lt_mul_of_pos_right (by exact_mod_cast Nat.lt_succ_self _) (ulp_pos _)

theorem magVal_strictMono : StrictMono magVal := strictMono_nat_of_lt_succ magVal_lt_succ

theorem magVal_zero : magVal 0 = 0 := by simp [magVal, gridSig]

/-- Seen from binade `E`, a magnitude is a whole number of its units, or lies below every normal magnitude of it. -/
theorem magVal_on_grid_or_lt (E x : Nat) :
    (∃ k : Nat, magVal x = k * ulp E) ∨ (E ≠ 0 ∧ magVal x < 2 ^ 52 * ulp E) := by
  rcases Nat.lt_or_ge (gridExp x) E with hlt | hge
  · refine .inr ⟨by omega, ?_⟩
    have hsig : (gridSig x : Rat) < 2 ^ 53 := by exact_mod_cast gridSig_lt x
    calc magVal x < 2 ^ 53 * ulp (gridExp x) := mul_lt_mul_of_pos_right hsig (ulp_pos _)
      _ = 2 ^ 52 * ulp (gridExp x + 1) := by rw [ulp_succ]; ring
      _ ≤ 2 ^ 52 * ulp E := by gcongr; exact ulp_mono hlt
  · obtain ⟨j, hj⟩ := Nat.exists_eq_add_of_le hge
    refine .inl ⟨gridSig x * 2 ^ j, ?_⟩
    rw [magVal, hj, ulp_add]
    push_cast
    ring

/-- A number of a sign and a magnitude. -/
def withSign (neg : Bool) (r : Rat) : Rat := if neg then -r else r

@[simp] theorem abs_withSign (neg : Bool) (r : Rat) : |withSign neg r| = |r| := by
  cases neg <;> simp [withSign]

@[simp] theorem withSign_decide_neg_abs (q : Rat) : withSign (decide (q < 0)) |q| = q := by
  unfold withSign
  rcases lt_or_ge q 0 with h | h
  · simp [h, abs_of_neg]
  · simp [h, not_lt.2 h, abs_of_nonneg]

theorem abs_withSign_sub_withSign (neg : Bool) (a b : Rat) : |withSign neg a - withSign neg b| = |a - b| := by
  cases neg
  · rfl
  · simpa [withSign, neg_add_eq_sub] using abs_sub_comm b a

/-- A number of the other sign is farther away, unless it is zero. -/
theorem abs_sub_le_withSign {a b : Rat} (ha : 0 ≤ a) (hb : 0 < b) (neg neg' : Bool) :
    |a - b| ≤ |withSign neg' a - withSign neg b| ∧
      (|a - b| = |withSign neg' a - withSign neg b| → withSign neg' a = withSign neg a) := by
  rcases eq_or_ne neg' neg with rfl | hne
  · simp [abs_withSign_sub_withSign]
  · have hother : |withSign neg' a - withSign neg b| = a + b := by
      cases neg <;> cases neg' <;> simp_all [withSign]
      · rw [abs_of_nonpos] <;> linarith
      · linarith
    have hzero : a = 0 → withSign neg' a = withSign neg a := by
      rintro rfl
      simp [withSign]
    rw [hother]
    exact ⟨abs_le.2 ⟨by linarith, by linarith⟩, fun h => hzero (by cases abs_cases (a - b) <;> linarith)⟩

theorem getLsbD_63_eq (w : BitVec 64) : w.getLsbD 63 = decide (2 ^ 63 ≤ w.toNat) := by
  rw [← BitVec.msb_eq_getLsbD_last w, BitVec.msb_eq_decide]

theorem toNat_eq_sign_add_mag (w : BitVec 64) :
    w.toNat = (if w.getLsbD 63 then 2 ^ 63 else 0) + w.toNat % 2 ^ 63 := by
  have := w.isLt
  rw [getLsbD_63_eq]
  split <;> simp_all <;> omega

/-- The value of a magnitude from its exponent and fraction fields. -/
theorem magVal_eq_fields (x : Nat) :
    magVal x = if x / 2 ^ 52 = 0 then ((x % 2 ^ 52 : Nat) : Rat) * 2 ^ (-1074 : Int)
      else ((2 ^ 52 + x % 2 ^ 52 : Nat) : Rat) * 2 ^ (((x / 2 ^ 52 : Nat) : Int) - 1075) := by
  unfold magVal ulp
  split
  · have hE : gridExp x = 0 := by
      unfold gridExp
      omega
    have hs : gridSig x = x % 2 ^ 52 := by
      rw [gridSig, hE]
      omega
    rw [hE, hs]
    rfl
  · have hE : ((gridExp x : Nat) : Int) = ((x / 2 ^ 52 : Nat) : Int) - 1 := by
      unfold gridExp
      omega
    have hs : gridSig x = 2 ^ 52 + x % 2 ^ 52 := by
      unfold gridSig gridExp
      omega
    rw [hE, hs]
    ring_nf

/-- What a word holds when its exponent field is not the greatest one. -/
theorem wordVal_of_lt {w : BitVec 64} (h : w.toNat % 2 ^ 63 < 2047 * 2 ^ 52) :
    wordVal w = .fin (w.getLsbD 63) (withSign (w.getLsbD 63) (magVal (w.toNat % 2 ^ 63))) := by
  have he : (w.extractLsb' 52 11).toNat = w.toNat % 2 ^ 63 / 2 ^ 52 := by
    rw [BitVec.extractLsb'_toNat, Nat.shiftRight_eq_div_pow]
    omega
  have hf : (w.extractLsb' 0 52).toNat = w.toNat % 2 ^ 63 % 2 ^ 52 := by
    rw [BitVec.extractLsb'_toNat, Nat.shiftRight_eq_div_pow]
    omega
  rw [wordVal]
  simp only [he, hf, pow2_eq_zpow]
  generalize w.toNat % 2 ^ 63 = x at h ⊢
  rw [if_neg (by omega), magVal_eq_fields, withSign]

/-- The finite words, and what they hold. -/
theorem wordVal_eq_fin {w : BitVec 64} {neg : Bool} {q : Rat} :
    wordVal w = .fin neg q ↔
      w.toNat % 2 ^ 63 < 2047 * 2 ^ 52 ∧ neg = w.getLsbD 63 ∧ q = withSign neg (magVal (w.toNat % 2 ^ 63)) := by
  rcases Nat.lt_or_ge (w.toNat % 2 ^ 63) (2047 * 2 ^ 52) with h | h
  · rw [wordVal_of_lt h, Val.fin.injEq]
    constructor
    · rintro ⟨rfl, rfl⟩
      exact ⟨h, rfl, rfl⟩
    · rintro ⟨_, rfl, rfl⟩
      exact ⟨rfl, rfl⟩
  · have he : (w.extractLsb' 52 11).toNat = 2047 := by
      rw [BitVec.extractLsb'_toNat, Nat.shiftRight_eq_div_pow]
      omega
    have hne : wordVal w ≠ .fin neg q := by
      rw [wordVal]
      simp only [he, if_true]
      split <;> nofun
    exact iff_of_false hne fun ⟨hlt, _⟩ => absurd h (Nat.not_le.2 hlt)

end Sys2Proof.Machine
end

section
/-! PROOFS. The parts of the rounding (00_scope.md R15, log 13): the quotient rounded to an even integer, the exponent
of the last place, and the magnitude made of both. -/

namespace Sys2Proof.Machine

/-- A quotient as its floor and a fraction. -/
theorem div_eq_floor_add_fraction (n : Nat) {d : Nat} (hd : 0 < d) :
    (n : Rat) / d = (n / d : Nat) + ((n % d : Nat) : Rat) / d := by
  have hd' : (0 : Rat) < d := by exact_mod_cast hd
  field_simp
  exact_mod_cast (Nat.div_add_mod n d).symm

/-- The rounded quotient is within a half of the quotient, and even if it is a half away. -/
theorem roundQuotEven_near (n : Nat) {d : Nat} (hd : 0 < d) :
    |(roundQuotEven n d : Rat) - n / d| ≤ 1 / 2 ∧
      (|(roundQuotEven n d : Rat) - n / d| = 1 / 2 → roundQuotEven n d % 2 = 0) := by
  have hd' : (0 : Rat) < d := by exact_mod_cast hd
  have hlt : ((n % d : Nat) : Rat) / d < 1 := (div_lt_one hd').2 (by exact_mod_cast Nat.mod_lt n hd)
  have hup : d < 2 * (n % d) ↔ 1 / 2 < ((n % d : Nat) : Rat) / d := by
    rw [div_lt_div_iff₀ two_pos hd', one_mul, mul_comm]
    exact_mod_cast Iff.rfl
  have htie : 2 * (n % d) = d ↔ ((n % d : Nat) : Rat) / d = 1 / 2 := by
    rw [div_eq_div_iff hd'.ne' two_ne_zero, one_mul, mul_comm]
    exact_mod_cast Iff.rfl
  have hnonneg : 0 ≤ ((n % d : Nat) : Rat) / d := by positivity
  unfold roundQuotEven
  simp only [div_eq_floor_add_fraction n hd, hup, htie]
  generalize ((n % d : Nat) : Rat) / d = t at *
  split
  · rename_i hcond
    have hge : 1 / 2 ≤ t := hcond.elim le_of_lt fun h => h.1.ge
    have hdist : |((n / d + 1 : Nat) : Rat) - ((n / d : Nat) + t)| = 1 - t := by
      push_cast
      rw [abs_of_pos] <;> linarith
    rw [hdist]
    refine ⟨by linarith, fun h => ?_⟩
    have hodd : n / d % 2 = 1 := hcond.elim (fun h' => by linarith) And.right
    omega
  · rename_i hcond
    push Not at hcond
    obtain ⟨hle, hodd⟩ := hcond
    have hdist : |((n / d : Nat) : Rat) - ((n / d : Nat) + t)| = t := by
      rw [sub_add_cancel_left, abs_neg, abs_of_nonneg hnonneg]
    rw [hdist]
    refine ⟨hle, fun h => ?_⟩
    have := hodd h
    omega

theorem two_pow_le_div_iff {n d : Nat} (hd : 0 < d) (k : Int) :
    (2 : Rat) ^ k ≤ n / d ↔ if 0 ≤ k then d * 2 ^ k.toNat ≤ n else d ≤ n * 2 ^ (-k).toNat := by
  have hd' : (0 : Rat) < d := by exact_mod_cast hd
  rw [le_div_iff₀ hd']
  split
  · rename_i hk
    lift k to Nat using hk
    rw [zpow_natCast, Int.toNat_natCast, mul_comm]
    exact_mod_cast Iff.rfl
  · rename_i hk
    obtain ⟨j, rfl⟩ : ∃ j : Nat, k = -j := ⟨(-k).toNat, by omega⟩
    rw [zpow_neg, zpow_natCast, neg_neg, Int.toNat_natCast, inv_mul_le_iff₀ (by positivity), mul_comm]
    exact_mod_cast Iff.rfl

/-- A quotient is within a factor of two of the quotient of the powers of two below its parts. -/
theorem div_between_two_pow {n d : Nat} (hn : 0 < n) (hd : 0 < d) :
    (2 : Rat) ^ ((n.log2 : Int) - d.log2 - 1) ≤ n / d ∧ (n : Rat) / d < 2 ^ ((n.log2 : Int) - d.log2 + 1) := by
  have hd' : (0 : Rat) < d := by exact_mod_cast hd
  have hnlo : (2 : Rat) ^ n.log2 ≤ n := by exact_mod_cast Nat.log2_self_le hn.ne'
  have hnhi : (n : Rat) < 2 ^ (n.log2 + 1) := by exact_mod_cast Nat.lt_log2_self
  have hdlo : (2 : Rat) ^ d.log2 ≤ d := by exact_mod_cast Nat.log2_self_le hd.ne'
  have hdhi : (d : Rat) < 2 ^ (d.log2 + 1) := by exact_mod_cast Nat.lt_log2_self
  constructor
  · rw [sub_sub, zpow_sub₀ two_ne_zero]
    exact_mod_cast div_le_div₀ (by positivity) hnlo hd' hdhi.le
  · rw [sub_add_eq_add_sub, zpow_sub₀ two_ne_zero]
    exact_mod_cast div_lt_div₀ hnhi hdlo (by positivity) (by positivity)

/-- The exponent of the last place is 52 below the one of the quotient's greatest power of two, and no less than that
of the subnormals. -/
theorem ulpExp_eq {n d : Nat} (hn : 0 < n) (hd : 0 < d) :
    ∃ b : Int, ulpExp n d = max (b - 52) (-1074) ∧ (2 : Rat) ^ b ≤ n / d ∧ (n : Rat) / d < 2 ^ (b + 1) := by
  obtain ⟨hlo, hhi⟩ := div_between_two_pow hn hd
  unfold ulpExp
  dsimp only
  generalize (n.log2 : Int) - d.log2 = k at hlo hhi ⊢
  by_cases hk : (2 : Rat) ^ k ≤ n / d
  · refine ⟨k, ?_, hk, hhi⟩
    rw [two_pow_le_div_iff hd] at hk
    simp [hk]
  · refine ⟨k - 1, ?_, hlo, by simpa using hk⟩
    rw [two_pow_le_div_iff hd] at hk
    simp [hk]

/-- `r` rounds to `m` units of binade `E`, the one where `r` has its 53 bits. -/
structure RoundsAt (r : Rat) (E m : Nat) : Prop where
  lt_top : r < 2 ^ 53 * ulp E
  normal : E = 0 ∨ 2 ^ 52 * ulp E ≤ r
  near : |m * ulp E - r| ≤ ulp E / 2
  tieEven : |m * ulp E - r| = ulp E / 2 → m % 2 = 0

/-- Both ways the significand is computed round the quotient in units of the last place. -/
theorem magWord_eq_roundQuotEven {n d : Nat} (hn : 0 < n) (hd : 0 < d) :
    ∃ n' d' : Nat, 0 < d' ∧ (n' : Rat) / d' = n / d / 2 ^ ulpExp n d ∧
      magWord n d = min ((ulpExp n d + 1074).toNat * 2 ^ 52 + roundQuotEven n' d') (2047 * 2 ^ 52) := by
  have hd' : (d : Rat) ≠ 0 := by exact_mod_cast hd.ne'
  unfold magWord
  rw [if_neg hn.ne']
  dsimp only
  generalize ulpExp n d = e
  split
  · rename_i he
    lift e to Nat using he
    exact ⟨n, d * 2 ^ e, by positivity, by simp [div_div], by simp⟩
  · rename_i he
    obtain ⟨j, rfl⟩ : ∃ j : Nat, e = -j := ⟨(-e).toNat, by omega⟩
    exact ⟨n * 2 ^ j, d, hd, by simp [mul_div_right_comm], by simp⟩

/-- The rounded magnitude lays the binade and the significand side by side, up to infinity. -/
theorem magWord_roundsAt {n d : Nat} (hn : 0 < n) (hd : 0 < d) :
    ∃ E m : Nat, RoundsAt (n / d) E m ∧ magWord n d = min (E * 2 ^ 52 + m) (2047 * 2 ^ 52) := by
  obtain ⟨b, he, hlo, hhi⟩ := ulpExp_eq hn hd
  obtain ⟨n', d', hd', hquot, hword⟩ := magWord_eq_roundQuotEven hn hd
  obtain ⟨E, hE⟩ : ∃ E : Nat, ulpExp n d = (E : Int) - 1074 := ⟨(ulpExp n d + 1074).toNat, by omega⟩
  have hulp : (2 : Rat) ^ ulpExp n d = ulp E := by rw [hE, ulp]
  have htop : (n : Rat) / d < 2 ^ 53 * ulp E :=
    calc (n : Rat) / d < 2 ^ (b + 1) := hhi
      _ ≤ 2 ^ (53 + ulpExp n d) := zpow_le_zpow_right₀ one_le_two (by omega)
      _ = 2 ^ 53 * ulp E := by rw [zpow_add₀ two_ne_zero, hulp]; rfl
  have hnormal : E = 0 ∨ 2 ^ 52 * ulp E ≤ n / d := by
    refine or_iff_not_imp_left.2 fun hE0 => ?_
    calc (2 : Rat) ^ 52 * ulp E = 2 ^ (52 + ulpExp n d) := by rw [zpow_add₀ two_ne_zero, hulp]; rfl
      _ = 2 ^ b := by congr 1; omega
      _ ≤ n / d := hlo
  obtain ⟨hnear, heven⟩ := roundQuotEven_near n' hd'
  have hdist : |(roundQuotEven n' d' : Rat) * ulp E - n / d| = |(roundQuotEven n' d' : Rat) - n' / d'| * ulp E := by
    rw [hquot, hulp, ← abs_of_pos (ulp_pos E), ← abs_mul, abs_of_pos (ulp_pos E), sub_mul,
      div_mul_cancel₀ _ (ulp_pos E).ne']
  refine ⟨E, roundQuotEven n' d', ⟨htop, hnormal, ?_, fun h => heven ?_⟩, by rw [hword, hE]; simp⟩
  · rw [hdist]
    linarith [mul_le_mul_of_nonneg_right hnear (ulp_pos E).le]
  · rw [hdist] at h
    exact mul_right_cancel₀ (ulp_pos E).ne' (by linarith)

namespace RoundsAt

variable {r : Rat} {E m : Nat}

theorem sig_le (h : RoundsAt r E m) : m ≤ 2 ^ 53 := by
  obtain ⟨_, hnear⟩ := abs_le.1 h.near
  have hlt : (m : Rat) * ulp E < (2 ^ 53 + 1 : Nat) * ulp E := by
    push_cast
    linarith [h.lt_top, ulp_pos E]
  exact Nat.lt_succ_iff.1 (by exact_mod_cast lt_of_mul_lt_mul_right hlt (ulp_pos E).le)

theorem le_sig (h : RoundsAt r E m) : E = 0 ∨ 2 ^ 52 ≤ m := by
  refine h.normal.imp_right fun hr => ?_
  obtain ⟨hnear, _⟩ := abs_le.1 h.near
  have hlt : ((2 ^ 52 : Nat) : Rat) * ulp E < (m + 1 : Nat) * ulp E := by
    push_cast
    linarith [ulp_pos E]
  exact Nat.lt_succ_iff.1 (by exact_mod_cast lt_of_mul_lt_mul_right hlt (ulp_pos E).le)

theorem magVal_eq (h : RoundsAt r E m) : magVal (E * 2 ^ 52 + m) = m * ulp E := magVal_of_grid h.le_sig h.sig_le

/-- Another whole number of units is no nearer, and as near only from the middle. -/
theorem near_grid (h : RoundsAt r E m) {k : Nat} (hk : k ≠ m) :
    |m * ulp E - r| ≤ |k * ulp E - r| ∧ (|m * ulp E - r| = |k * ulp E - r| → |m * ulp E - r| = ulp E / 2) := by
  have hapart : (1 : Rat) ≤ |(k : Rat) - m| := by
    exact_mod_cast Int.one_le_abs (sub_ne_zero.2 (by exact_mod_cast hk : (k : Int) ≠ m))
  have hfar : ulp E ≤ |k * ulp E - r| + |m * ulp E - r| :=
    calc ulp E ≤ |(k : Rat) - m| * ulp E := le_mul_of_one_le_left (ulp_pos E).le hapart
      _ = |(k * ulp E - r) - (m * ulp E - r)| := by
        rw [sub_sub_sub_cancel_right, ← sub_mul, abs_mul, abs_of_pos (ulp_pos E)]
      _ ≤ |k * ulp E - r| + |m * ulp E - r| := abs_sub _ _
  have hnear := h.near
  exact ⟨by linarith, fun heq => by linarith⟩

/-- No magnitude is nearer, and another is as near only when the significand is even. -/
theorem nearest (h : RoundsAt r E m) (x : Nat) :
    |m * ulp E - r| ≤ |magVal x - r| ∧
      (|m * ulp E - r| = |magVal x - r| → magVal x ≠ m * ulp E → m % 2 = 0) := by
  rcases magVal_on_grid_or_lt E x with ⟨k, hx⟩ | ⟨hE, hx⟩
  · rw [hx]
    rcases eq_or_ne k m with rfl | hk
    · exact ⟨le_rfl, fun _ hne => absurd rfl hne⟩
    · obtain ⟨hle, htie⟩ := h.near_grid hk
      exact ⟨hle, fun heq _ => h.tieEven (htie heq)⟩
  · have hr : 2 ^ 52 * ulp E ≤ r := h.normal.resolve_left hE
    have hle : |m * ulp E - r| ≤ |((2 ^ 52 : Nat) : Rat) * ulp E - r| := by
      rcases eq_or_ne (2 ^ 52) m with rfl | hk
      · exact le_rfl
      · exact (h.near_grid hk).1
    have hlt : |m * ulp E - r| < |magVal x - r| := by
      simp only [Nat.cast_pow, Nat.cast_ofNat] at hle
      rw [abs_of_nonpos (by linarith : 2 ^ 52 * ulp E - r ≤ 0)] at hle
      rw [abs_of_neg (by linarith : magVal x - r < 0)]
      linarith
    exact ⟨hlt.le, fun heq => absurd heq hlt.ne⟩

/-- Below the midpoint of the largest finite word and `2^1024`, the rounded magnitude is finite. -/
theorem mag_lt (h : RoundsAt r E m) (hr : r < 2 ^ 1024 - 2 ^ 970) : E * 2 ^ 52 + m < 2047 * 2 ^ 52 := by
  have hr : r < 2 ^ 53 * ulp 2045 - ulp 2045 / 2 := by
    have hulp : ulp 2045 = 2 ^ 971 := rfl
    rwa [hulp, ← pow_add, pow_succ 2 970, mul_div_cancel_right₀ _ two_ne_zero]
  have hm := h.sig_le
  rcases Nat.lt_trichotomy E 2045 with hE | rfl | hE
  · omega
  · obtain ⟨_, hnear⟩ := abs_le.1 h.near
    have hlt : (m : Rat) * ulp 2045 < (2 ^ 53 : Nat) * ulp 2045 := by
      push_cast
      linarith
    have : m < 2 ^ 53 := by exact_mod_cast lt_of_mul_lt_mul_right hlt (ulp_pos _).le
    omega
  · have hnormal : 2 ^ 52 * ulp E ≤ r := h.normal.resolve_left (by omega)
    have hmono : 2 * ulp 2045 ≤ ulp E := ulp_succ 2045 ▸ ulp_mono hE
    linarith [ulp_pos 2045]

end RoundsAt
end Sys2Proof.Machine
end

section
/-! PROOFS. The rounding to binary64 as a whole (00_scope.md R15, log 13). -/

namespace Sys2Proof.Machine

theorem natAbs_num_div_den (q : Rat) : (q.num.natAbs : Rat) / q.den = |q| := by
  rw [Nat.cast_natAbs, Int.cast_abs, ← abs_of_pos (Nat.cast_pos.2 q.den_pos : (0 : Rat) < q.den), ← abs_div,
    Rat.num_div_den]

/-- The magnitude of the word a number is rounded to. -/
def roundMag (q : Rat) : Nat := magWord q.num.natAbs q.den

theorem roundMag_roundsAt {q : Rat} (hq : q ≠ 0) :
    ∃ E m : Nat, RoundsAt |q| E m ∧ roundMag q = min (E * 2 ^ 52 + m) (2047 * 2 ^ 52) :=
  natAbs_num_div_den q ▸ magWord_roundsAt (Int.natAbs_pos.2 (Rat.num_ne_zero.2 hq)) q.den_pos

theorem roundMag_le (q : Rat) : roundMag q ≤ 2047 * 2 ^ 52 := by
  rcases eq_or_ne q 0 with rfl | hq
  · exact Nat.zero_le _
  · obtain ⟨E, m, _, hmag⟩ := roundMag_roundsAt hq
    exact hmag ▸ Nat.min_le_right _ _

/-- The magnitude of a number is rounded to a nearest finite one, of two to the even one. -/
theorem roundMag_nearest {q : Rat} (hq : q ≠ 0) (hlt : |q| < 2 ^ 1024 - 2 ^ 970) :
    roundMag q < 2047 * 2 ^ 52 ∧ ∀ x, |magVal (roundMag q) - (|q|)| ≤ |magVal x - (|q|)| ∧
      (|magVal (roundMag q) - (|q|)| = |magVal x - (|q|)| → magVal x ≠ magVal (roundMag q) → roundMag q % 2 = 0) := by
  obtain ⟨E, m, hround, hmag⟩ := roundMag_roundsAt hq
  have hfin := hround.mag_lt hlt
  rw [Nat.min_eq_left hfin.le] at hmag
  rw [hmag, hround.magVal_eq]
  refine ⟨hfin, fun x => ?_⟩
  obtain ⟨hle, heven⟩ := hround.nearest x
  refine ⟨hle, fun heq hne => ?_⟩
  have := heven heq hne
  omega

/-- A magnitude that binary64 holds is kept: no other has its value. -/
theorem roundMag_of_abs_eq {q : Rat} {x : Nat} (hx : x < 2047 * 2 ^ 52) (hq : |q| = magVal x) : roundMag q = x := by
  rcases eq_or_ne q 0 with rfl | hne
  · refine magVal_strictMono.injective ?_
    rw [← hq, abs_zero]
    exact magVal_zero
  · obtain ⟨E, m, hround, hmag⟩ := roundMag_roundsAt hne
    have hexact : magVal (E * 2 ^ 52 + m) = magVal x := by
      obtain ⟨hle, _⟩ := hround.nearest x
      rw [hq, sub_self, abs_zero, abs_nonpos_iff, sub_eq_zero] at hle
      exact hround.magVal_eq.trans hle
    rw [hmag, magVal_strictMono.injective hexact, Nat.min_eq_left hx.le]

theorem roundWord_toNat (neg : Bool) (q : Rat) :
    (roundWord neg q).toNat = (if neg then 2 ^ 63 else 0) + roundMag q := by
  have hle := roundMag_le q
  rw [roundWord, BitVec.toNat_ofNat]
  change ((if neg then 2 ^ 63 else 0) + roundMag q) % 2 ^ 64 = _
  refine Nat.mod_eq_of_lt ?_
  split <;> omega

theorem roundWord_mag (neg : Bool) (q : Rat) : (roundWord neg q).toNat % 2 ^ 63 = roundMag q := by
  have hle := roundMag_le q
  rw [roundWord_toNat]
  split <;> omega

theorem roundWord_sign (neg : Bool) (q : Rat) : (roundWord neg q).getLsbD 63 = neg := by
  have hle := roundMag_le q
  rw [getLsbD_63_eq, roundWord_toNat]
  cases neg
  · exact decide_eq_false (by simp; omega)
  · exact decide_eq_true (by simp)

theorem roundWord_even {q : Rat} (neg : Bool) (h : roundMag q % 2 = 0) : (roundWord neg q).getLsbD 0 = false := by
  rw [BitVec.getLsbD, Nat.testBit_zero, roundWord_toNat]
  refine decide_eq_false ?_
  split <;> omega

/-- Settles O53: the word's value has its magnitude, which is kept, and its sign. -/
theorem roundingKeepsEveryFiniteWord : Obligations.RoundingKeepsEveryFiniteWord := by
  intro w neg q hw
  obtain ⟨hfin, rfl, rfl⟩ := wordVal_eq_fin.1 hw
  have hmag : roundMag (withSign (w.getLsbD 63) (magVal (w.toNat % 2 ^ 63))) = w.toNat % 2 ^ 63 :=
    roundMag_of_abs_eq hfin (by rw [abs_withSign, abs_of_nonneg (magVal_nonneg _)])
  refine BitVec.eq_of_toNat_eq ?_
  rw [roundWord_toNat, hmag, ← toNat_eq_sign_add_mag]

/-- Settles O52: the rounded magnitude is nearest among the magnitudes, and a word of the other sign is farther away
than the one of the same magnitude. -/
theorem roundingIsToNearestEven : Obligations.RoundingIsToNearestEven := by
  intro q hq hlt
  obtain ⟨hfin, hnearest⟩ := roundMag_nearest hq hlt
  have hdist : |withSign (decide (q < 0)) (magVal (roundMag q)) - q| = |magVal (roundMag q) - (|q|)| := by
    simpa using abs_withSign_sub_withSign (decide (q < 0)) (magVal (roundMag q)) |q|
  refine ⟨withSign (decide (q < 0)) (magVal (roundMag q)), ?_, fun w neg p' hw => ?_⟩
  · rw [wordVal_eq_fin, roundWord_mag, roundWord_sign]
    exact ⟨hfin, rfl, rfl⟩
  · obtain ⟨_, _, rfl⟩ := wordVal_eq_fin.1 hw
    obtain ⟨hle, heven⟩ := hnearest (w.toNat % 2 ^ 63)
    obtain ⟨hsign, hsame⟩ :=
      abs_sub_le_withSign (magVal_nonneg (w.toNat % 2 ^ 63)) (abs_pos.2 hq) (decide (q < 0)) neg
    rw [withSign_decide_neg_abs] at hsign hsame
    rw [hdist]
    refine ⟨hle.trans hsign, fun heq hne => roundWord_even _ (heven (by linarith) ?_)⟩
    intro hmag
    exact hne (by rw [hsame (by linarith), hmag])

end Sys2Proof.Machine
end

section
/-! PROOFS. What an operation leaves unchanged: an operation below the byte level changes only the working state, the
reader's result output and the pending events (20_memory.md R74, 42_dispatch.md R224), and a completed frame leaves
the block idle (41_frame_sync.md R187). -/

namespace Sys2Proof.Machine

/-- `t` differs from `s` at most in the working state, the reader's result output and the pending events. -/
def State.ChangesOnlyWork (s t : State) : Prop :=
  t = { s with frm := t.frm, tr := t.tr, trValid := t.trValid, store := t.store, rd := t.rd, evq := t.evq }

namespace State.ChangesOnlyWork

variable {s t : State} (h : s.ChangesOnlyWork t)
include h

theorem par : t.par = s.par := (congrArg State.par h).trans rfl
theorem st : t.st = s.st := (congrArg State.st h).trans rfl
theorem cnt : t.cnt = s.cnt := (congrArg State.cnt h).trans rfl
theorem buf : t.buf = s.buf := (congrArg State.buf h).trans rfl
theorem busy : t.busy = s.busy := (congrArg State.busy h).trans rfl

end State.ChangesOnlyWork

/-- An outcome has one next state. -/
theorem next_unique {o : Host.Outcome State Fault Refusal} {t u : State} (ht : o = .next t) (hu : o = .next u) :
    u = t := Host.Outcome.next.inj (hu.symm.trans ht)

theorem rawDecode_changesOnlyWork (s : State) : s.ChangesOnlyWork (rawDecode s) := by
  rcases rawDecode_cases s with ⟨e, he⟩ | hs | ⟨v, e, he⟩ | ⟨v, S, _, he⟩
  · rw [he]; rfl
  · exact hs.symm ▸ rfl
  · rw [he]; rfl
  · rw [he]; rfl

theorem readerResult_changesOnlyWork (s : State) (r : Except Exc Int) : s.ChangesOnlyWork (readerResult s r) := by
  rcases readerResult_cases s r with ⟨v, hv⟩ | ⟨e, he⟩
  · rw [hv]; rfl
  · rw [he]; rfl

theorem execNavGps_changesOnlyWork (s : State) : Lands s.ChangesOnlyWork (execNavGps s) := by
  rcases execNavGps_cases s with ⟨e, he⟩ | ⟨F, hF⟩
  · exact ⟨_, he, rfl⟩
  · rcases selectSubframe_cases (s.setFrm F) with ⟨x, hx⟩ | ⟨n, hn⟩
    · exact ⟨_, hF.trans hx, rfl⟩
    · exact ⟨_, hF.trans hn, rfl⟩

theorem execTrkRaw_changesOnlyWork (s : State) : Lands s.ChangesOnlyWork (execTrkRaw s) := by
  rcases execTrkRaw_cases s with ⟨e, he⟩ | he | he
  · exact ⟨_, he, rfl⟩
  · exact ⟨_, he, rawDecode_changesOnlyWork s⟩
  · exact ⟨_, he, rfl⟩

theorem execTrkNav_changesOnlyWork (s : State) : Lands s.ChangesOnlyWork (execTrkNav s) := by
  rcases execTrkNav_cases s with ⟨e, he⟩ | he | he
  · exact ⟨_, he, rfl⟩
  · exact he ▸ execNavGps_changesOnlyWork s
  · exact ⟨_, he, rfl⟩

theorem dispatchMessage_changesOnlyWork (s : State) : Lands s.ChangesOnlyWork (dispatchMessage s) := by
  rcases dispatchMessage_cases s with he | he | he
  · exact he ▸ execTrkRaw_changesOnlyWork s
  · exact he ▸ execTrkNav_changesOnlyWork s
  · exact ⟨_, he, rfl⟩

/-- An operation below the byte level ends in a next state, whatever state it runs in, and changes only the working
state, the result output and the pending events. -/
theorem exec_inner_changesOnlyWork {i : Instr} (hi : Inner i) (s : State) : Lands s.ChangesOnlyWork (exec i s) := by
  obtain ⟨k, hk⟩ := hi
  cases i with
  | syncIdleHit => cases hk
  | syncIdleMiss b => cases hk
  | syncSeen1Hit => cases hk
  | syncSeen1Miss b => cases hk
  | syncAccAppend b => cases hk
  | trkRaw => exact execTrkRaw_changesOnlyWork s
  | trkNav => exact execTrkNav_changesOnlyWork s
  | ignore c i => exact ⟨_, rfl, rfl⟩
  | rawT6 => exact ⟨_, rfl, rawDecode_changesOnlyWork s⟩
  | rawOther t => exact ⟨_, rfl, rfl⟩
  | navGps => exact execNavGps_changesOnlyWork s
  | navOther g => exact ⟨_, rfl, rfl⟩
  | sf1 => exact ⟨_, rfl, rfl⟩
  | sf23 lo => exact ⟨_, rfl, rfl⟩
  | sf45 lo => exact ⟨_, rfl, rfl⟩
  | sfBad x => exact ⟨_, rfl, rfl⟩
  | rdU8 off => exact ⟨_, rfl, readerResult_changesOnlyWork s _⟩
  | rdU16 off => exact ⟨_, rfl, readerResult_changesOnlyWork s _⟩
  | rdU32 off => exact ⟨_, rfl, readerResult_changesOnlyWork s _⟩
  | rdI32 off => exact ⟨_, rfl, readerResult_changesOnlyWork s _⟩
  | rdI64 off => exact ⟨_, rfl, readerResult_changesOnlyWork s _⟩
  | bfU a n => exact ⟨_, rfl, rfl⟩
  | bfS a n => exact ⟨_, rfl, rfl⟩

/-- An inner key selects an operation below the byte level, or none. -/
theorem inner_of_decodeInner {k : InnerKey} {i : Instr} (h : decodeInner k = .ok i) : Inner i := by
  cases k with
  | frame opc =>
    obtain rfl := Except.ok.inj h
    unfold decodeFrame
    split_ifs <;> exact ⟨_, rfl⟩
  | raw t =>
    obtain rfl := Except.ok.inj h
    unfold decodeRaw
    split_ifs <;> exact ⟨_, rfl⟩
  | nav g =>
    obtain rfl := Except.ok.inj h
    unfold decodeNav
    split_ifs <;> exact ⟨_, rfl⟩
  | subframe x =>
    obtain rfl := Except.ok.inj h
    unfold decodeSubframe
    split_ifs <;> exact ⟨_, rfl⟩
  | reader r off a n =>
    replace h : decodeReader r off a n = .ok i := h
    unfold decodeReader at h
    split_ifs at h <;> cases h <;> exact ⟨_, rfl⟩

theorem runKey_inner_changesOnlyWork {k : InnerKey} {s t : State} (h : runKey (decodeInner k) s = .next t) :
    s.ChangesOnlyWork t := by
  cases hk : decodeInner k with
  | error r => simp [runKey, hk] at h
  | ok i =>
    obtain ⟨u, hu, hwork⟩ := exec_inner_changesOnlyWork (inner_of_decodeInner hk) s
    obtain rfl : u = t := by simpa [runKey, hk, hu] using h
    exact hwork

/-- `t` is `s` with the synchronizer back in `IDLE` and the buffer counted as empty; the message a frame brought may
have left its marks elsewhere. -/
structure State.BackToIdle (s t : State) : Prop where
  par : t.par = s.par
  st : t.st = .idle
  cnt : t.cnt = 0
  buf : t.buf = s.buf
  busy : s.busy = false → t.busy = false

/-- A discarded frame leaves the block idle, and so does a message, which raises `busy` only for itself. -/
theorem handOn_backToIdle {s t : State} {f : FrameRec} (h : handOn (s.setSync .idle 0) f = .next t) :
    s.BackToIdle t := by
  rcases handOn_cases (s.setSync .idle 0) f with ⟨_, _, he⟩ | ⟨_, he⟩
  · obtain rfl := next_unique he h
    exact ⟨rfl, rfl, rfl, rfl, id⟩
  · obtain ⟨u, hu, hwork⟩ := dispatchMessage_changesOnlyWork
      (((s.setSync .idle 0).beginMessage f.cls f.id f.payload).emit [.frame f])
    rw [he, hu] at h
    obtain rfl := Host.Outcome.next.inj h
    exact ⟨hwork.par, hwork.st, hwork.cnt, hwork.buf, fun _ => rfl⟩

theorem complete_backToIdle {s t : State} {L : Nat} (h : complete s L = .next t) : s.BackToIdle t := by
  unfold complete at h
  split at h
  · cases h
  · exact handOn_backToIdle h

end Sys2Proof.Machine
end

section
/-! PROOFS. What an accepted byte can do (41_frame_sync.md R180 to R188), and what one step can do, said once as
inversions: from the next state to the ways it can have come about. -/

namespace Sys2Proof.Machine

/-- The length bytes of the buffer, as `complete` and the overflow guard read them. -/
theorem declaredLength_eq_ok {m : Memory} {L : Nat} : declaredLength m = .ok L ↔ m.declares L := by
  constructor
  · intro h
    cases h2 : m.read 2 with
    | none => simp [declaredLength, Memory.fetchRange, Memory.fetch, h2] at h
    | some lo =>
      cases h3 : m.read 3 with
      | none => simp [declaredLength, Memory.fetchRange, Memory.fetch, h2, h3] at h
      | some hi => exact ⟨lo, hi, h2, h3, (Except.ok.inj ((declaredLength_ok h2 h3).symm.trans h)).symm⟩
  · rintro ⟨lo, hi, h2, h3, rfl⟩
    exact declaredLength_ok h2 h3

theorem decodeByte_idle : ∀ b : Byte, decodeByte (byteKey .idle b) =
    .ok (if b = 0xB5 then .syncIdleHit else .syncIdleMiss b) := by decide

theorem decodeByte_seen1 : ∀ b : Byte, decodeByte (byteKey .seen1 b) =
    .ok (if b = 0x62 then .syncSeen1Hit else .syncSeen1Miss b) := by decide

theorem decodeByte_acc : ∀ b : Byte, decodeByte (byteKey .acc b) = .ok (.syncAccAppend b) := by decide

/-- Everything an accepted byte can do. -/
theorem acceptByte_cases (b : Byte) (s : State) :
    (s.st = .idle ∧ (acceptByte b s = .next (s.setSync .seen1 s.cnt) ∨ acceptByte b s = .next s)) ∨
    (s.st = .seen1 ∧ (acceptByte b s = .next (s.setSync .acc 0) ∨ acceptByte b s = .next (s.setSync .idle s.cnt))) ∨
    (s.st = .acc ∧ acceptByte b s = execSyncAccAppend b s) := by
  unfold acceptByte
  cases hst : s.st with
  | idle =>
    rw [decodeByte_idle]
    split_ifs
    · exact .inl ⟨rfl, .inl rfl⟩
    · exact .inl ⟨rfl, .inr rfl⟩
  | seen1 =>
    rw [decodeByte_seen1]
    split_ifs
    · exact .inr (.inl ⟨rfl, .inl rfl⟩)
    · exact .inr (.inl ⟨rfl, .inr rfl⟩)
  | acc =>
    rw [decodeByte_acc]
    exact .inr (.inr ⟨rfl, rfl⟩)

/-- The state once byte `b` is stored at `cnt` and counted, before the length tests (41_frame_sync.md R185). -/
def State.stored (s : State) (b : Byte) : State :=
  { s with buf := s.buf.write s.cnt.toNat b, cnt := s.cnt + 1 }

/-- An append keeps accumulating, the header unfinished or the frame incomplete and small enough, or it takes the
block back to `IDLE`: an overflow, or the frame's last byte. -/
theorem execSyncAccAppend_next {b : Byte} {s t : State} (h : execSyncAccAppend b s = .next t) :
    s.cnt.toNat < s.par.bufCap ∧
    ((t = s.stored b ∧ (s.cnt.toNat + 1 < 4 ∨ 4 ≤ s.cnt.toNat + 1 ∧ ∃ L, (s.stored b).buf.declares L ∧
        ¬(s.cnt.toNat + 1 = 4 ∧ s.par.bufCap < L + 6) ∧ s.cnt.toNat + 1 ≠ L + 6)) ∨
      (s.stored b).BackToIdle t) := by
  rcases execSyncAccAppend_cases b s with ⟨_, he⟩ | ⟨hcnt, he⟩
  · simp [he] at h
  refine ⟨hcnt, ?_⟩
  replace h : afterAppend (s.stored b) (s.cnt.toNat + 1) = .next t := he.symm.trans h
  rcases afterAppend_cases (s.stored b) (s.cnt.toNat + 1) with
    ⟨hc, he⟩ | ⟨hc, ⟨e, _, he⟩ | ⟨L, hL, ⟨_, _, he⟩ | ⟨_, _, he⟩ | ⟨hfits, hne, he⟩⟩⟩
  · exact .inl ⟨next_unique he h, .inl hc⟩
  · simp [he] at h
  · obtain rfl := next_unique he h
    exact .inr ⟨rfl, rfl, rfl, rfl, id⟩
  · exact .inr (complete_backToIdle (he.symm.trans h))
  · exact .inl ⟨next_unique he h, .inr ⟨hc, L, declaredLength_eq_ok.1 hL, hfits, hne⟩⟩

theorem acceptByte_par {b : Byte} {s t : State} (h : acceptByte b s = .next t) : t.par = s.par := by
  rcases acceptByte_cases b s with ⟨_, he | he⟩ | ⟨_, he | he⟩ | ⟨_, he⟩
  · simp [next_unique he h]
  · simp [next_unique he h]
  · simp [next_unique he h]
  · simp [next_unique he h]
  · rcases (execSyncAccAppend_next (he.symm.trans h)).2 with ⟨rfl, _⟩ | hidle
    · rfl
    · exact hidle.par

/-- The two things a move of the reset input can do. -/
theorem moveRst_cases (s : State) (level : Bool) : s.moveRst level = s.afterReset level ∨ s.moveRst level = s := by
  unfold State.moveRst
  split
  · exact .inl rfl
  · exact .inr rfl

/-- The ways `t` can follow `s` in one step: nothing runs, and a move of the environment may be used up; a reset,
of which only what `afterReset` gives and the parameters kept are said; an inner operation issued by itself; an
accepted byte. -/
inductive StepsTo (s : State) : State → Prop where
  | idles (is : List Input) : StepsTo s (s.setInq is)
  | resets (u : State) (level : Bool) (hpar : u.par = s.par) : StepsTo s (u.afterReset level)
  | runsInner {u : State} (hwork : s.clearOp.ChangesOnlyWork u) : StepsTo s u.deliver
  | acceptsByte {b : Byte} {rest : List Input} {u : State} (hacc : acceptByte b (s.setInq rest) = .next u) :
      StepsTo s u.deliver

theorem stepsTo_waitRst (s : State) : StepsTo s s.waitRst := by
  rcases waitRst_cases s with he | ⟨level, rest, _, he | he⟩
  · rw [he]; exact .idles s.inq
  · rw [he]; exact .resets (s.setInq rest) level rfl
  · rw [he]; exact .idles rest

/-- A reset inside a byte's step ends in the reset state: nothing is left of what the byte did but the events
delivered. -/
theorem stepsTo_of_takeMove {s t : State} (h : takeMove s = .next t) : StepsTo s t := by
  unfold takeMove at h
  split at h
  · obtain rfl := Host.Outcome.next.inj h
    exact .idles s.inq
  · obtain ⟨u, hu, rfl⟩ := onNext_eq_next.1 h
    exact .acceptsByte hu
  · obtain ⟨u, hu, rfl⟩ := onNext_eq_next.1 h
    have hpar := acceptByte_par hu
    exact .resets _ true hpar
  · rename_i level rest _
    obtain rfl := Host.Outcome.next.inj h
    rcases moveRst_cases (s.setInq rest) level with he | he
    · rw [he]; exact .resets (s.setInq rest) level rfl
    · rw [he]; exact .idles rest

/-- Every next state of a step follows in one of the four ways. -/
theorem stepsTo_of_step {s t : State} (h : step s = .next t) : StepsTo s t := by
  rcases step_cases s with ⟨_, he⟩ | ⟨_, k, _, he⟩ | ⟨_, _, _, he⟩ | ⟨_, _, _, he⟩
  · exact next_unique he h ▸ stepsTo_waitRst s
  · obtain ⟨u, hu, rfl⟩ := onNext_eq_next.1 (he.symm.trans h)
    exact .runsInner (runKey_inner_changesOnlyWork hu)
  · exact next_unique he h ▸ stepsTo_waitRst s
  · exact stepsTo_of_takeMove (he.symm.trans h)

/-- Settles O35: a reset keeps the parameters, and no operation writes them. -/
theorem parametersNeverChange : Obligations.ParametersNeverChange := by
  intro s t h
  cases stepsTo_of_step h with
  | idles is => rfl
  | resets u level hpar => exact hpar
  | runsInner hwork => exact hwork.par
  | acceptsByte hacc => exact (acceptByte_par hacc).trans (State.setInq_par s _)

end Sys2Proof.Machine
end

section
/-! PROOFS. The state invariant (10_state.md R49): it holds at reset and every step keeps it. Inside a step events
are pending, so a byte's operation is held to the invariant of the state after their delivery. -/

namespace Sys2Proof.Machine

theorem Memory.written_write {m : Memory} {n : Nat} (h : m.written n) (b : Byte) : (m.write n b).written (n + 1) := by
  intro a ha
  rw [Memory.read_write]
  split
  · exact ⟨b, rfl⟩
  · exact h a (by omega)

/-- A write past the header leaves the declared length. -/
theorem Memory.declares_write {m : Memory} {a L : Nat} (ha : 4 ≤ a) (b : Byte) :
    (m.write a b).declares L ↔ m.declares L := by
  simp only [Memory.declares, Memory.read_write_other m b (show 2 ≠ a by omega),
    Memory.read_write_other m b (show 3 ≠ a by omega)]

theorem Memory.declares_unique {m : Memory} {L L' : Nat} (h : m.declares L) (h' : m.declares L') : L = L' :=
  Except.ok.inj ((declaredLength_eq_ok.2 h).symm.trans (declaredLength_eq_ok.2 h'))

theorem Params.bufCap_le_of_legal {par : Params} (h : par.legal = true) : par.bufCap ≤ 65541 := by
  simp only [Params.legal, checkBufCap, Bool.and_eq_true, decide_eq_true_eq] at h
  omega

namespace State.Inv

/-- In `IDLE` with an empty buffer the invariant speaks only of the parameters and of the cells listed. -/
theorem of_idle {s : State} (hlegal : s.par.legal = true) (hwf : s.buf.wf) (hbelow : ∀ c ∈ s.buf, c.1 < s.par.bufCap)
    (hst : s.st = .idle) (hcnt : s.cnt = 0) (hbusy : s.busy = false) (hevq : s.evq = []) : s.Inv where
  legal := hlegal
  bufWf := hwf
  bufBelow := hbelow
  cntZero _ := hcnt
  defined hacc := by simp [hst] at hacc
  bounded hacc := by simp [hst] at hacc
  notBusy := hbusy
  noPending := hevq

theorem afterReset {s : State} (hlegal : s.par.legal = true) (level : Bool) : (s.afterReset level).Inv :=
  of_idle hlegal Memory.reset_wf (by simp) rfl rfl rfl rfl

theorem setInq {s : State} (h : s.Inv) (is : List Input) : (s.setInq is).Inv :=
  ⟨h.legal, h.bufWf, h.bufBelow, h.cntZero, h.defined, h.bounded, h.notBusy, h.noPending⟩

theorem clearOp {s : State} (h : s.Inv) : s.clearOp.Inv :=
  ⟨h.legal, h.bufWf, h.bufBelow, h.cntZero, h.defined, h.bounded, h.notBusy, h.noPending⟩

/-- What an inner operation changes the invariant does not speak of, but for the events, which are delivered. -/
theorem deliver_of_changesOnlyWork {s u : State} (h : s.Inv) (hwork : s.ChangesOnlyWork u) : u.deliver.Inv := by
  rw [hwork]
  exact ⟨h.legal, h.bufWf, h.bufBelow, h.cntZero, h.defined, h.bounded, h.notBusy, rfl⟩

theorem deliver {s : State} (h : s.Inv) : s.deliver.Inv := h.deliver_of_changesOnlyWork rfl

/-- The new state of the synchronizer accumulates nothing yet. -/
theorem deliver_setSync_zero {s : State} (h : s.Inv) {v : SyncState} : (s.setSync v 0).deliver.Inv where
  legal := h.legal
  bufWf := h.bufWf
  bufBelow := h.bufBelow
  cntZero _ := rfl
  defined _ := by simp [Memory.written]
  bounded _ := .inl (Nat.zero_le 3)
  notBusy := h.notBusy
  noPending := rfl

section Append

variable {s : State} (h : s.Inv) {b : Byte}
include h

theorem stored_bufWf : (s.stored b).buf.wf := Memory.write_wf h.bufWf _ b

theorem stored_bufBelow (hcnt : s.cnt.toNat < s.par.bufCap) : ∀ c ∈ (s.stored b).buf, c.1 < s.par.bufCap := by
  intro c hc
  rcases Memory.mem_write hc with rfl | hc
  · exact hcnt
  · exact h.bufBelow c hc

/-- `cnt` counts the byte stored: it is below `BUF_CAP`, which a 17-bit counter exceeds. -/
theorem stored_cnt_toNat (hcnt : s.cnt.toNat < s.par.bufCap) : (s.stored b).cnt.toNat = s.cnt.toNat + 1 := by
  have hcap : s.par.bufCap ≤ 65541 := Params.bufCap_le_of_legal h.legal
  show (s.cnt + 1).toNat = s.cnt.toNat + 1
  rw [BitVec.toNat_add_of_lt (show s.cnt.toNat + 1 < 2 ^ 17 by omega)]
  rfl

/-- From the fourth byte on the length bytes stand: the fourth byte itself is followed by the overflow guard, and a
later one leaves the length that bounds `cnt` already. -/
theorem stored_lt_frameLength (hacc : s.st = .acc) {L : Nat} (hc : 4 ≤ s.cnt.toNat + 1)
    (hL : (s.stored b).buf.declares L) (hfits : ¬(s.cnt.toNat + 1 = 4 ∧ s.par.bufCap < L + 6))
    (hne : s.cnt.toNat + 1 ≠ L + 6) : s.cnt.toNat + 1 < L + 6 ∧ L + 6 ≤ s.par.bufCap := by
  rcases h.bounded hacc with h3 | ⟨h4, L', hL', hlt, hcap⟩
  · omega
  · obtain rfl : L' = L := Memory.declares_unique hL' ((Memory.declares_write h4 b).1 hL)
    omega

theorem deliver_of_append (hacc : s.st = .acc) {t : State} (happ : execSyncAccAppend b s = .next t) :
    t.deliver.Inv := by
  obtain ⟨hcnt, ⟨rfl, hlen⟩ | hidle⟩ := execSyncAccAppend_next happ
  · have hcount : (s.stored b).cnt.toNat = s.cnt.toNat + 1 := h.stored_cnt_toNat hcnt
    refine ⟨h.legal, h.stored_bufWf, h.stored_bufBelow hcnt, fun hst => absurd hacc hst, fun _ => ?_, fun _ => ?_,
      h.notBusy, rfl⟩
    · show (s.stored b).buf.written (s.stored b).cnt.toNat
      rw [hcount]
      exact Memory.written_write (h.defined hacc) b
    · show (s.stored b).cnt.toNat ≤ 3 ∨ _
      rw [State.deliver_cnt, hcount]
      rcases hlen with hc | ⟨hc, L, hL, hfits, hne⟩
      · exact .inl (by omega)
      · exact .inr ⟨hc, L, hL, h.stored_lt_frameLength hacc hc hL hfits hne⟩
  · exact .of_idle (s := t.deliver) (hidle.par ▸ h.legal) (hidle.buf ▸ h.stored_bufWf)
      (hidle.par ▸ hidle.buf ▸ h.stored_bufBelow hcnt) hidle.st hidle.cnt (hidle.busy h.notBusy) rfl

/-- An accepted byte keeps the invariant once its events are delivered. -/
theorem deliver_of_acceptByte {t : State} (hacc : acceptByte b s = .next t) : t.deliver.Inv := by
  rcases acceptByte_cases b s with ⟨hst, he | he⟩ | ⟨hst, he | he⟩ | ⟨hst, he⟩
  · rw [next_unique he hacc, h.cntZero (by simp [hst])]
    exact h.deliver_setSync_zero
  · exact next_unique he hacc ▸ h.deliver
  · exact next_unique he hacc ▸ h.deliver_setSync_zero
  · rw [next_unique he hacc, h.cntZero (by simp [hst])]
    exact h.deliver_setSync_zero
  · exact h.deliver_of_append hst (he.symm.trans hacc)

end Append

end State.Inv

/-- Settles O10, by the four ways a state follows another in one step. -/
theorem invKeptByEveryStep : Obligations.InvKeptByEveryStep := by
  intro s t h hstep
  cases stepsTo_of_step hstep with
  | idles is => exact h.setInq is
  | resets u level hpar => exact .afterReset (hpar ▸ h.legal) level
  | runsInner hwork => exact h.clearOp.deliver_of_changesOnlyWork hwork
  | acceptsByte hacc => exact (h.setInq _).deliver_of_acceptByte hacc

theorem defaultParams_legal : defaultParams.legal = true := by decide

/-- Settles O11: the state is one a reset leaves, whose moves the invariant does not speak of. -/
theorem resetMeetsInv : Obligations.ResetMeetsInv := by
  have hreset : ∀ (par : Params) (is : List Input), par.legal = true →
      ({ State.reset with par := par, inq := is } : State).Inv := fun par is hlegal =>
    State.Inv.afterReset (s := { State.reset with par := par, inq := is }) hlegal false
  exact ⟨hreset defaultParams [] defaultParams_legal, hreset⟩

/-- Settles O17: each value is read off `State.reset`, `in_ready` and `ev_valid` from the fields they are made of. -/
theorem resetValues : Obligations.ResetValues := by
  have hready : State.reset.inReady = true := by simp [State.inReady, State.reset]
  have hvalid : State.reset.evValid = false := by simp [State.evValid, State.reset]
  exact ⟨rfl, rfl, rfl, hready, hvalid, rfl, rfl⟩

end Sys2Proof.Machine
end

section
/-! PROOFS. The memory rules (20_memory.md R74, R76): reads of different widths see the same bytes, and one operation
alone writes the buffer. -/

namespace Sys2Proof.Machine

/-- Little-endian values of consecutive bytes: the second part stands above the bits of the first. -/
theorem leNat_append_eq_or (bs cs : List Byte) : leNat (bs ++ cs) = leNat bs ||| leNat cs <<< (8 * bs.length) := by
  have hpow : 256 ^ bs.length = 2 ^ (8 * bs.length) := (pow_mul 2 8 bs.length).symm
  have hlow : leNat bs < 2 ^ (8 * bs.length) := hpow ▸ leNat_lt bs
  calc leNat (bs ++ cs) = leNat bs + 256 ^ bs.length * leNat cs := leNat_append bs cs
    _ = leNat cs <<< (8 * bs.length) + leNat bs := by rw [hpow, Nat.shiftLeft_eq, Nat.mul_comm, Nat.add_comm]
    _ = leNat cs <<< (8 * bs.length) ||| leNat bs := Nat.shiftLeft_add_eq_or_of_lt hlow _
    _ = leNat bs ||| leNat cs <<< (8 * bs.length) := Nat.lor_comm _ _

/-- Settles O28: the bytes of the wide read are those of the two narrow ones, one after the other. -/
theorem widerReadIsTheNarrowerReadsJoined : Obligations.WiderReadIsTheNarrowerReadsJoined := by
  intro P off m n v h
  obtain ⟨hlen, rfl⟩ := memRead_eq_ok.1 h
  have hbytes : (P.drop off).take (m + n) = (P.drop off).take m ++ (P.drop (off + m)).take n := by
    rw [List.take_add, List.drop_drop]
  have hm : ((P.drop off).take m).length = m := by
    rw [List.length_take, List.length_drop]
    omega
  refine ⟨_, _, memRead_ok (by omega), memRead_ok (by omega), ?_⟩
  rw [hbytes, leNat_append_eq_or, hm]

/-- Settles O33: it is what `exec_inner_changesOnlyWork` says of the operation's one next state. -/
theorem innerOperationsFrame : Obligations.InnerOperationsFrame := by
  intro i s t hi h
  obtain ⟨u, hu, hwork⟩ := exec_inner_changesOnlyWork hi s
  exact next_unique hu h ▸ hwork

/-- The buffer after an append holds the byte at `cnt`, whatever follows of the length tests. -/
theorem execSyncAccAppend_buf {b : Byte} {s t : State} (h : execSyncAccAppend b s = .next t) :
    t.buf = s.buf.write s.cnt.toNat b := by
  rcases (execSyncAccAppend_next h).2 with ⟨rfl, _⟩ | hidle
  · rfl
  · exact hidle.buf

/-- An operation of the byte level is an append, or it moves the synchronizer and leaves the buffer as it is. -/
theorem exec_byteLevel_buf {i : Instr} {k : BitVec 10} (hk : encode i = .byte k) {s t : State}
    (h : exec i s = .next t) : (∃ b, i = .syncAccAppend b) ∨ t.buf = s.buf := by
  cases i with
  | syncIdleHit => cases h; exact .inr rfl
  | syncIdleMiss b => cases h; exact .inr rfl
  | syncSeen1Hit => cases h; exact .inr rfl
  | syncSeen1Miss b => cases h; exact .inr rfl
  | syncAccAppend b => exact .inl ⟨b, rfl⟩
  | _ => cases hk

/-- Everything an operation can do to the buffer. -/
theorem exec_buf {i : Instr} {s t : State} (h : exec i s = .next t) :
    (∃ b, i = .syncAccAppend b ∧ t.buf = s.buf.write s.cnt.toNat b) ∨ t.buf = s.buf := by
  cases hk : encode i with
  | byte k =>
    rcases exec_byteLevel_buf hk h with ⟨b, rfl⟩ | hbuf
    · exact .inl ⟨b, rfl, execSyncAccAppend_buf h⟩
    · exact .inr hbuf
  | inner k =>
    obtain ⟨u, hu, hwork⟩ := exec_inner_changesOnlyWork ⟨k, hk⟩ s
    exact .inr (next_unique hu h ▸ hwork.buf)

/-- Settles O34: the append is the one operation that can change the buffer, and a write changes its own address
only. -/
theorem onlyAppendWritesTheBuffer : Obligations.OnlyAppendWritesTheBuffer := by
  intro i s t a h hread
  rcases exec_buf h with ⟨b, rfl, hbuf⟩ | hbuf
  · rw [hbuf] at hread ⊢
    obtain rfl : a = s.cnt.toNat := by
      by_contra hne
      exact hread (Memory.read_write_other s.buf b hne)
    exact ⟨b, rfl, rfl, Memory.read_write_same s.buf _ b⟩
  · exact absurd (congrArg (Memory.read · a) hbuf) hread

end Sys2Proof.Machine
end

section
/-! PROOFS. The order of the events (20_memory.md R86, 42_dispatch.md R220, 60_exceptions.md R355): a byte's operation
adds nothing to what is pending, or the `FRAME` and after it what the decoder emits, which is no `FRAME`. -/

namespace Sys2Proof.Machine

/-- None of the events is a `FRAME`. -/
def NoFrame (E : List Event) : Prop := ∀ g, Event.frame g ∉ E

/-- No event, or one `FRAME` and after it events that are no `FRAME`. -/
def FrameFirst (E : List Event) : Prop := E = [] ∨ ∃ f E', E = .frame f :: E' ∧ NoFrame E'

theorem noFrame_nil : NoFrame [] := by simp [NoFrame]

theorem noFrame_err (e : ErrRec) : NoFrame [.err e] := by simp [NoFrame]

theorem noFrame_nav (n : NavRec) : NoFrame [.nav n] := by simp [NoFrame]

theorem noFrame_obs (os : List Obs) : NoFrame (os.map Event.obs) := by simp [NoFrame]

theorem NoFrame.take {E : List Event} (h : NoFrame E) (k : Nat) : NoFrame (E.take k) :=
  fun g hg => h g (List.mem_of_mem_take hg)

theorem frameFirst_nil : FrameFirst [] := .inl rfl

theorem frameFirst_cons (f : FrameRec) {E : List Event} (h : NoFrame E) : FrameFirst (.frame f :: E) :=
  .inr ⟨f, E, rfl, h⟩

/-- The first events of such a list are such a list again: a reset inside the step delivers only those. -/
theorem FrameFirst.take {E : List Event} (h : FrameFirst E) (k : Nat) : FrameFirst (E.take k) := by
  rcases h with rfl | ⟨f, E', rfl, hE'⟩
  · exact .inl List.take_nil
  · cases k with
    | zero => exact .inl rfl
    | succ k => exact frameFirst_cons f (hE'.take k)

/-- From `s` to `t` nothing is delivered, and what is added to the pending events is as `P` says. -/
def State.AddsEvents (P : List Event → Prop) (s t : State) : Prop := t.out = s.out ∧ ∃ E, t.evq = s.evq ++ E ∧ P E

namespace State.AddsEvents

variable {P : List Event → Prop} {s t : State}

theorem of_same (hout : t.out = s.out) (hevq : t.evq = s.evq) (hP : P []) : s.AddsEvents P t :=
  ⟨hout, [], by rw [hevq, List.append_nil], hP⟩

theorem raise (s : State) (e : Exc) : s.AddsEvents NoFrame (s.raise e) := ⟨rfl, _, rfl, noFrame_err _⟩

theorem emit (s : State) {E : List Event} (hE : P E) : s.AddsEvents P (s.emit E) := ⟨rfl, E, rfl, hE⟩

/-- What follows a `FRAME` that went out first. -/
theorem of_emit_frame {f : FrameRec} (h : (s.emit [.frame f]).AddsEvents NoFrame t) : s.AddsEvents FrameFirst t := by
  obtain ⟨hout, E, hE, hno⟩ := h
  exact ⟨hout, .frame f :: E, by simp [hE], frameFirst_cons f hno⟩

end State.AddsEvents

theorem rawDecode_addsNoFrame (s : State) : s.AddsEvents NoFrame (rawDecode s) := by
  rcases rawDecode_cases s with ⟨e, he⟩ | hs | ⟨v, e, he⟩ | ⟨v, S, _, he⟩
  · exact he ▸ .raise s e
  · exact hs.symm ▸ .of_same rfl rfl noFrame_nil
  · exact he ▸ State.AddsEvents.raise (s.setTr v) e
  · exact he ▸ State.AddsEvents.emit ((s.setTr v).setStore S) (noFrame_obs _)

theorem execNavGps_addsNoFrame (s : State) : Lands (s.AddsEvents NoFrame) (execNavGps s) := by
  rcases execNavGps_cases s with ⟨e, he⟩ | ⟨F, hF⟩
  · exact ⟨_, he, .raise s e⟩
  · rcases selectSubframe_cases (s.setFrm F) with ⟨x, hx⟩ | ⟨n, hn⟩
    · exact ⟨_, hF.trans hx, State.AddsEvents.raise (s.setFrm F) _⟩
    · exact ⟨_, hF.trans hn, State.AddsEvents.emit (s.setFrm F) (noFrame_nav n)⟩

/-- A decoder emits no `FRAME`, whichever the dispatcher selects. -/
theorem dispatchMessage_addsNoFrame (s : State) : Lands (s.AddsEvents NoFrame) (dispatchMessage s) := by
  have hnone : s.AddsEvents NoFrame s := .of_same rfl rfl noFrame_nil
  rcases dispatchMessage_cases s with hd | hd | hd
  · rcases execTrkRaw_cases s with ⟨e, he⟩ | he | he
    · exact ⟨_, hd.trans he, .raise s e⟩
    · exact ⟨_, hd.trans he, rawDecode_addsNoFrame s⟩
    · exact ⟨_, hd.trans he, hnone⟩
  · rcases execTrkNav_cases s with ⟨e, he⟩ | he | he
    · exact ⟨_, hd.trans he, .raise s e⟩
    · exact hd.trans he ▸ execNavGps_addsNoFrame s
    · exact ⟨_, hd.trans he, hnone⟩
  · exact ⟨_, hd, hnone⟩

theorem handOn_addsFrameFirst {s t : State} {f : FrameRec} (h : handOn s f = .next t) :
    s.AddsEvents FrameFirst t := by
  rcases handOn_cases s f with ⟨_, _, he⟩ | ⟨_, he⟩
  · exact next_unique he h ▸ .of_same rfl rfl frameFirst_nil
  · obtain ⟨u, hu, hadds⟩ := dispatchMessage_addsNoFrame ((s.beginMessage f.cls f.id f.payload).emit [.frame f])
    rw [he, hu] at h
    obtain rfl := Host.Outcome.next.inj h
    exact hadds.of_emit_frame

theorem complete_addsFrameFirst {s t : State} {L : Nat} (h : complete s L = .next t) :
    s.AddsEvents FrameFirst t := by
  unfold complete at h
  split at h
  · cases h
  · exact handOn_addsFrameFirst (s := s.setSync .idle 0) h

theorem afterAppend_addsFrameFirst {s t : State} {c : Nat} (h : afterAppend s c = .next t) :
    s.AddsEvents FrameFirst t := by
  rcases afterAppend_cases s c with ⟨_, he⟩ | ⟨_, ⟨e, _, he⟩ | ⟨L, _, ⟨_, _, he⟩ | ⟨_, _, he⟩ | ⟨_, _, he⟩⟩⟩
  · exact next_unique he h ▸ .of_same rfl rfl frameFirst_nil
  · simp [he] at h
  · exact next_unique he h ▸ .of_same rfl rfl frameFirst_nil
  · exact complete_addsFrameFirst (he.symm.trans h)
  · exact next_unique he h ▸ .of_same rfl rfl frameFirst_nil

theorem execSyncAccAppend_addsFrameFirst {b : Byte} {s t : State} (h : execSyncAccAppend b s = .next t) :
    s.AddsEvents FrameFirst t := by
  rcases execSyncAccAppend_cases b s with ⟨_, he⟩ | ⟨_, he⟩
  · simp [he] at h
  · exact afterAppend_addsFrameFirst (s := s.stored b) (he.symm.trans h)

/-- The events of an accepted byte. -/
theorem acceptByte_addsFrameFirst {b : Byte} {s t : State} (h : acceptByte b s = .next t) :
    s.AddsEvents FrameFirst t := by
  rcases acceptByte_cases b s with ⟨_, he | he⟩ | ⟨_, he | he⟩ | ⟨_, he⟩
  · exact next_unique he h ▸ .of_same rfl rfl frameFirst_nil
  · exact next_unique he h ▸ .of_same rfl rfl frameFirst_nil
  · exact next_unique he h ▸ .of_same rfl rfl frameFirst_nil
  · exact next_unique he h ▸ .of_same rfl rfl frameFirst_nil
  · exact execSyncAccAppend_addsFrameFirst (he.symm.trans h)

/-- Nothing is pending in `t`, and what was delivered since `s` is as `P` says. -/
def State.Delivers (P : List Event → Prop) (s t : State) : Prop := t.evq = [] ∧ ∃ E, t.out = s.out ++ E ∧ P E

namespace State.Delivers

variable {P : List Event → Prop} {s t : State}

theorem of_same (hout : t.out = s.out) (hevq : t.evq = []) (hP : P []) : s.Delivers P t :=
  ⟨hevq, [], by rw [hout, List.append_nil], hP⟩

/-- With nothing pending before, the events added are the events delivered. -/
theorem deliver (hs : s.evq = []) (h : s.AddsEvents P t) : s.Delivers P t.deliver := by
  obtain ⟨hout, E, hE, hP⟩ := h
  exact ⟨rfl, E, by simp [hout, hE, hs], hP⟩

/-- A reset inside the step delivers the first few of them. -/
theorem interrupt (hs : s.evq = []) (h : s.AddsEvents FrameFirst t) (k : Nat) :
    s.Delivers FrameFirst (t.interrupt k) := by
  obtain ⟨hout, E, hE, hP⟩ := h
  exact ⟨rfl, E.take k, by simp [State.interrupt, hout, hE, hs], hP.take k⟩

end State.Delivers

theorem takeMove_delivers {s t : State} (hs : s.evq = []) (h : takeMove s = .next t) :
    s.Delivers FrameFirst t := by
  unfold takeMove at h
  split at h
  · exact Host.Outcome.next.inj h ▸ .of_same rfl hs frameFirst_nil
  · rename_i b rest _
    obtain ⟨u, hu, rfl⟩ := onNext_eq_next.1 h
    exact State.Delivers.deliver (s := s.setInq rest) hs (acceptByte_addsFrameFirst hu)
  · rename_i b k rest _
    obtain ⟨u, hu, rfl⟩ := onNext_eq_next.1 h
    exact State.Delivers.interrupt (s := s.setInq rest) hs (acceptByte_addsFrameFirst hu) k
  · rename_i level rest _
    obtain rfl := Host.Outcome.next.inj h
    rcases moveRst_cases (s.setInq rest) level with he | he
    · rw [he]; exact .of_same rfl rfl frameFirst_nil
    · rw [he]; exact .of_same rfl hs frameFirst_nil

/-- A ready block takes the environment's next move. -/
theorem step_of_ready {s : State} (h : s.ready) : step s = takeMove s := by
  obtain ⟨hrst, hbusy, hop, _⟩ := h
  simp [step, runStep, hrst, hbusy, hop]

/-- Settles O36: a ready block has nothing pending, so what the move's operation adds is what the step delivers, or
the first part of it where a reset comes in between. -/
theorem eventsLeaveInOrder : Obligations.EventsLeaveInOrder := by
  intro s t hready h
  have ⟨_, _, _, hs⟩ := hready
  exact takeMove_delivers hs ((step_of_ready hready).symm.trans h)

end Sys2Proof.Machine
end

section
/-! PROOFS. The encodings (30_encoding.md R104, R105, R113, R120 to R122): what each level's decoder reads from its
key and which fields each row admits, said once; then that decoder and encoder undo each other. -/

namespace Sys2Proof.Machine

/-- Two words of the same parts are equal exactly when the parts are. -/
theorem append_eq_append_iff {m n : Nat} {a c : BitVec m} {b d : BitVec n} : a ++ b = c ++ d ↔ a = c ∧ b = d := by
  constructor
  · intro h
    have hhigh := congrArg (BitVec.extractLsb' n m) h
    have hlow := congrArg (BitVec.setWidth n) h
    rw [BitVec.extractLsb'_append_eq_left, BitVec.extractLsb'_append_eq_left] at hhigh
    rw [BitVec.setWidth_append_eq_right, BitVec.setWidth_append_eq_right] at hlow
    exact ⟨hhigh, hlow⟩
  · rintro ⟨rfl, rfl⟩
    rfl

/-- A word is its high part before its low part. -/
theorem extractLsb'_append_setWidth {m n : Nat} (k : BitVec (m + n)) : k.extractLsb' n m ++ k.setWidth n = k := by
  rw [BitVec.setWidth_eq_extractLsb' (by omega),
    BitVec.extractLsb'_append_extractLsb'_eq_extractLsb' (Nat.zero_add n).symm, BitVec.extractLsb'_eq_self]

/-- A key that selects an operation is not refused. -/
theorem not_error_of_ok {d : Except Reject Instr} {i : Instr} (h : d = .ok i) : ¬∃ e, d = .error e := by
  rintro ⟨e, he⟩
  cases h.symm.trans he

/-! The fields each row admits. -/

theorem wf_syncIdleMiss {b : Byte} : (Instr.syncIdleMiss b).wf = true ↔ b ≠ 0xB5 := decide_eq_true_iff

theorem wf_syncSeen1Miss {b : Byte} : (Instr.syncSeen1Miss b).wf = true ↔ b ≠ 0x62 := decide_eq_true_iff

/-- Two bytes are an ignored pair when the opcode they make is neither handled one. -/
theorem wf_ignore {c i : Byte} : (Instr.ignore c i).wf = true ↔ opcodeOf c i ≠ 0x030A ∧ opcodeOf c i ≠ 0x030F := by
  have hpair (c' i' : Byte) : opcodeOf c i = c' ++ i' ↔ (c, i) = (c', i') :=
    append_eq_append_iff.trans Prod.mk_inj.symm
  calc (Instr.ignore c i).wf = true
    _ ↔ (c, i) ≠ (clsTrk, idRaw) ∧ (c, i) ≠ (clsTrk, idNav) := decide_eq_true_iff
    _ ↔ opcodeOf c i ≠ clsTrk ++ idRaw ∧ opcodeOf c i ≠ clsTrk ++ idNav :=
      (and_congr (not_congr (hpair ..)) (not_congr (hpair ..))).symm

theorem wf_rawOther {t : Byte} : (Instr.rawOther t).wf = true ↔ t ≠ 0x06 :=
  decide_eq_true_iff.trans (not_congr (BitVec.toNat_inj (y := 0x06)))

theorem wf_navOther {g : Byte} : (Instr.navOther g).wf = true ↔ g ≠ 0x00 := decide_eq_true_iff

theorem wf_sfBad {x : BitVec 3} : (Instr.sfBad x).wf = true ↔ x = 0 ∨ x = 6 ∨ x = 7 := decide_eq_true_iff

theorem wf_bfU {a : BitVec 8} {n : BitVec 6} :
    (Instr.bfU a n).wf = true ↔ 1 ≤ n.toNat ∧ n.toNat ≤ 24 ∧ a.toNat + n.toNat ≤ 240 := by
  simp [Instr.wf, checkBfWidth, checkBfEnd, and_assoc]

/-- `BF.S` admits the operands of `BF.U` (40_field_reader.md R157). -/
theorem wf_bfS {a : BitVec 8} {n : BitVec 6} : (Instr.bfS a n).wf = true ↔ (Instr.bfU a n).wf = true := Iff.rfl

/-! The byte level. -/

/-- A byte-level key is that of a synchronizer state and a byte, or its state code is the unused 3. -/
theorem byteKey_or_unused (k : BitVec 10) : (∃ st b, k = byteKey st b) ∨ ∃ b : Byte, k = 3#2 ++ b := by
  have hcode : ∀ c : BitVec 2, c = 0 ∨ c = 1 ∨ c = 2 ∨ c = 3 := by decide
  have hk := extractLsb'_append_setWidth (m := 2) (n := 8) k
  rcases hcode (k.extractLsb' 8 2) with h | h | h | h <;> rw [h] at hk
  · exact .inl ⟨.idle, _, hk.symm⟩
  · exact .inl ⟨.seen1, _, hk.symm⟩
  · exact .inl ⟨.acc, _, hk.symm⟩
  · exact .inr ⟨_, hk.symm⟩

theorem decodeByte_unused : ∀ b : Byte, decodeByte (3#2 ++ b) = .error .unusedStateCode := by decide

/-- What a state and a byte select is well formed, and they are its key. -/
theorem decodeByte_byteKey (st : SyncState) (b : Byte) :
    ∃ i, decodeByte (byteKey st b) = .ok i ∧ i.wf = true ∧ encode i = .byte (byteKey st b) := by
  cases st with
  | idle =>
    refine ⟨_, decodeByte_idle b, ?_⟩
    split_ifs with hb
    · exact ⟨rfl, hb ▸ rfl⟩
    · exact ⟨wf_syncIdleMiss.2 hb, rfl⟩
  | seen1 =>
    refine ⟨_, decodeByte_seen1 b, ?_⟩
    split_ifs with hb
    · exact ⟨rfl, hb ▸ rfl⟩
    · exact ⟨wf_syncSeen1Miss.2 hb, rfl⟩
  | acc => exact ⟨_, decodeByte_acc b, rfl, rfl⟩

theorem encode_of_decodeByte {k : BitVec 10} {i : Instr} (h : decodeByte k = .ok i) :
    i.wf = true ∧ encode i = .byte k := by
  rcases byteKey_or_unused k with ⟨st, b, rfl⟩ | ⟨b, rfl⟩
  · obtain ⟨j, hj, hwf, henc⟩ := decodeByte_byteKey st b
    obtain rfl := Except.ok.inj (hj.symm.trans h)
    exact ⟨hwf, henc⟩
  · cases (decodeByte_unused b).symm.trans h

/-- The keys without a row are the last quarter, where the state code is 3. -/
theorem decodeByte_error_iff (k : BitVec 10) : (∃ r, decodeByte k = .error r) ↔ 768 ≤ k.toNat := by
  rcases byteKey_or_unused k with ⟨st, b, rfl⟩ | ⟨b, rfl⟩
  · obtain ⟨i, hi, -⟩ := decodeByte_byteKey st b
    have hlt : (byteKey st b).toNat < 768 := by
      have hcode : st.code.toNat ≤ 2 := by cases st <;> decide
      have hb := b.isLt
      rw [byteKey, BitVec.toNat_append, ← Nat.shiftLeft_add_eq_or_of_lt hb, Nat.shiftLeft_eq]
      omega
    exact iff_of_false (not_error_of_ok hi) (Nat.not_le.2 hlt)
  · have hge : 768 ≤ (3#2 ++ b).toNat := by
      rw [BitVec.toNat_append]
      exact Nat.left_le_or
    exact iff_of_true ⟨_, decodeByte_unused b⟩ hge

/-! The frame, raw, navigation and subframe levels. -/

/-- The frame level compares the whole opcode. -/
theorem decodeFrame_eq (opc : BitVec 16) : decodeFrame opc =
    if opc = 0x030A then .trkRaw else if opc = 0x030F then .trkNav
    else .ignore (opc.extractLsb' 8 8) (opc.setWidth 8) := by
  have hmask : opc &&& 0xFFFF = opc := BitVec.and_allOnes
  rw [decodeFrame, hmask]

theorem decodeFrame_ignore {c i : Byte} (h : (Instr.ignore c i).wf = true) :
    decodeFrame (opcodeOf c i) = .ignore c i := by
  obtain ⟨hraw, hnav⟩ := wf_ignore.1 h
  rw [decodeFrame_eq, if_neg hraw, if_neg hnav, opcodeOf, BitVec.extractLsb'_append_eq_left,
    BitVec.setWidth_append_eq_right]

theorem encode_decodeFrame (opc : BitVec 16) :
    (decodeFrame opc).wf = true ∧ encode (decodeFrame opc) = .inner (.frame opc) := by
  have hsplit : opcodeOf (opc.extractLsb' 8 8) (opc.setWidth 8) = opc :=
    extractLsb'_append_setWidth (m := 8) (n := 8) opc
  rw [decodeFrame_eq]
  split_ifs with hraw hnav
  · exact ⟨rfl, hraw ▸ rfl⟩
  · exact ⟨rfl, hnav ▸ rfl⟩
  · exact ⟨wf_ignore.2 (hsplit.symm ▸ ⟨hraw, hnav⟩), congrArg (Key.inner ∘ InnerKey.frame) hsplit⟩

/-- The raw-payload level compares the whole discriminator. -/
theorem decodeRaw_eq (t : Byte) : decodeRaw t = if t = 0x06 then .rawT6 else .rawOther t := by
  have hmask : t &&& 0xFF = t := BitVec.and_allOnes
  rw [decodeRaw, hmask]

theorem encode_decodeRaw (t : Byte) : (decodeRaw t).wf = true ∧ encode (decodeRaw t) = .inner (.raw t) := by
  rw [decodeRaw_eq]
  split_ifs with ht
  · exact ⟨rfl, ht ▸ rfl⟩
  · exact ⟨wf_rawOther.2 ht, rfl⟩

/-- The navigation-payload level compares the whole constellation code. -/
theorem decodeNav_eq (g : Byte) : decodeNav g = if g = 0x00 then .navGps else .navOther g := by
  have hmask : g &&& 0xFF = g := BitVec.and_allOnes
  rw [decodeNav, hmask]

theorem encode_decodeNav (g : Byte) : (decodeNav g).wf = true ∧ encode (decodeNav g) = .inner (.nav g) := by
  rw [decodeNav_eq]
  split_ifs with hg
  · exact ⟨rfl, hg ▸ rfl⟩
  · exact ⟨wf_navOther.2 hg, rfl⟩

theorem decodeSubframe_sf23 : ∀ lo : BitVec 1, decodeSubframe (0b01#2 ++ lo) = .sf23 lo := by decide

theorem decodeSubframe_sf45 : ∀ lo : BitVec 1, decodeSubframe (0b10#2 ++ lo) = .sf45 lo := by decide

theorem decodeSubframe_sfBad {x : BitVec 3} (h : (Instr.sfBad x).wf = true) : decodeSubframe x = .sfBad x := by
  rcases wf_sfBad.1 h with rfl | rfl | rfl <;> rfl

/-- The eight subframe ids, one by one. -/
theorem encode_decodeSubframe : ∀ x : BitVec 3,
    (decodeSubframe x).wf = true ∧ encode (decodeSubframe x) = .inner (.subframe x) := by decide

/-! The reader level. -/

section Reader

variable {r : BitVec 3} {off : BitVec 16} {a : BitVec 8} {n : BitVec 6}

/-- Everything a reader key can select: a read at a payload offset, which uses the wire `off` alone, one of the two
bit fields, which leave `off` unused, or no operation. -/
theorem decodeReader_cases (r : BitVec 3) (off : BitVec 16) (a : BitVec 8) (n : BitVec 6) :
    (r.toNat < 5 ∧ ∃ i, decodeReader r off a n = .ok i ∧ i.wf = true ∧ encode i = .inner (.reader r off 0 0)) ∨
    (r = 5 ∧ decodeReader r off a n = .ok (.bfU a n)) ∨
    (r = 6 ∧ decodeReader r off a n = .ok (.bfS a n)) ∨
    (r = 7 ∧ decodeReader r off a n = .error .reservedReaderOp) := by
  have hop : ∀ r : BitVec 3, r = 0 ∨ r = 1 ∨ r = 2 ∨ r = 3 ∨ r = 4 ∨ r = 5 ∨ r = 6 ∨ r = 7 := by decide
  rcases hop r with rfl | rfl | rfl | rfl | rfl | rfl | rfl | rfl
  · exact .inl ⟨by decide, .rdU8 off, rfl, rfl, rfl⟩
  · exact .inl ⟨by decide, .rdU16 off, rfl, rfl, rfl⟩
  · exact .inl ⟨by decide, .rdU32 off, rfl, rfl, rfl⟩
  · exact .inl ⟨by decide, .rdI32 off, rfl, rfl, rfl⟩
  · exact .inl ⟨by decide, .rdI64 off, rfl, rfl, rfl⟩
  · exact .inr (.inl ⟨rfl, rfl⟩)
  · exact .inr (.inr (.inl ⟨rfl, rfl⟩))
  · exact .inr (.inr (.inr ⟨rfl, rfl⟩))

theorem encode_of_decodeReader {i : Instr} (h : decodeReader r off a n = .ok i) :
    encode i = .inner (if r.toNat < 5 then .reader r off 0 0 else .reader r 0 a n) ∧
    (i.wf = true ↔ r.toNat < 5 ∨ (1 ≤ n.toNat ∧ n.toNat ≤ 24 ∧ a.toNat + n.toNat ≤ 240)) := by
  rcases decodeReader_cases r off a n with ⟨hr, j, hj, hwf, henc⟩ | ⟨rfl, hj⟩ | ⟨rfl, hj⟩ | ⟨-, he⟩
  · obtain rfl := Except.ok.inj (hj.symm.trans h)
    exact ⟨by rw [henc, if_pos hr], iff_of_true hwf (.inl hr)⟩
  · obtain rfl := Except.ok.inj (hj.symm.trans h)
    exact ⟨rfl, wf_bfU.trans (or_iff_right (by decide)).symm⟩
  · obtain rfl := Except.ok.inj (hj.symm.trans h)
    exact ⟨rfl, (wf_bfS.trans wf_bfU).trans (or_iff_right (by decide)).symm⟩
  · cases he.symm.trans h

theorem decodeReader_error_iff : (∃ e, decodeReader r off a n = .error e) ↔ r = 7 := by
  rcases decodeReader_cases r off a n with ⟨hr, i, hi, -⟩ | ⟨rfl, hi⟩ | ⟨rfl, hi⟩ | ⟨rfl, he⟩
  · have hne : r ≠ 7 := by
      rintro rfl
      exact absurd hr (by decide)
    exact iff_of_false (not_error_of_ok hi) hne
  · exact iff_of_false (not_error_of_ok hi) (by decide)
  · exact iff_of_false (not_error_of_ok hi) (by decide)
  · exact iff_of_true ⟨_, he⟩ rfl

end Reader

/-- Below the byte level the reader's reserved code alone has no row. -/
theorem decodeInner_error_iff (k : InnerKey) :
    (∃ e, decodeInner k = .error e) ↔ ∃ off a n, k = .reader 7 off a n := by
  cases k with
  | reader r off a n =>
    calc (∃ e, decodeInner (.reader r off a n) = .error e)
      _ ↔ r = 7 := decodeReader_error_iff
      _ ↔ ∃ off' a' n', InnerKey.reader r off a n = .reader 7 off' a' n' := by simp
  | _ => simp [decodeInner]

/-! The obligations. -/

/-- Settles O20, row by row: a miss, a pair, a discriminator or a code is none of the words that the rows before its
own match. -/
theorem everyEncodedOperationDecodesBack : Obligations.EveryEncodedOperationDecodesBack := by
  intro i h
  cases i with
  | syncIdleHit => rfl
  | syncIdleMiss b => exact (decodeByte_idle b).trans (by rw [if_neg (wf_syncIdleMiss.1 h)])
  | syncSeen1Hit => rfl
  | syncSeen1Miss b => exact (decodeByte_seen1 b).trans (by rw [if_neg (wf_syncSeen1Miss.1 h)])
  | syncAccAppend b => exact decodeByte_acc b
  | trkRaw => rfl
  | trkNav => rfl
  | ignore c i => exact congrArg Except.ok (decodeFrame_ignore h)
  | rawT6 => rfl
  | rawOther t => exact congrArg Except.ok ((decodeRaw_eq t).trans (if_neg (wf_rawOther.1 h)))
  | navGps => rfl
  | navOther g => exact congrArg Except.ok ((decodeNav_eq g).trans (if_neg (wf_navOther.1 h)))
  | sf1 => rfl
  | sf23 lo => exact congrArg Except.ok (decodeSubframe_sf23 lo)
  | sf45 lo => exact congrArg Except.ok (decodeSubframe_sf45 lo)
  | sfBad x => exact congrArg Except.ok (decodeSubframe_sfBad h)
  | rdU8 off => rfl
  | rdU16 off => rfl
  | rdU32 off => rfl
  | rdI32 off => rfl
  | rdI64 off => rfl
  | bfU a n => rfl
  | bfS a n => rfl

/-- Settles O21, level by level. -/
theorem everyKeyHasOneMeaning : Obligations.EveryKeyHasOneMeaning :=
  ⟨fun _ _ => encode_of_decodeByte, encode_decodeFrame, encode_decodeRaw, encode_decodeNav, encode_decodeSubframe,
    fun _ _ _ _ _ => encode_of_decodeReader, decodeByte_error_iff, decodeInner_error_iff⟩

/-- Settles O22: each of the nine words is the key of its operation, so by O20 it decodes to it. -/
theorem specWordsDecode : Obligations.SpecWordsDecode := by
  have h := everyEncodedOperationDecodesBack
  exact ⟨h .syncIdleHit rfl, h .syncSeen1Hit rfl, h (.syncAccAppend 0xB5) rfl, Except.ok.inj (h .trkRaw rfl),
    Except.ok.inj (h (.ignore 0x0A 0x03) rfl), Except.ok.inj (h (.rawOther 0x86) rfl), Except.ok.inj (h .navGps rfl),
    Except.ok.inj (h (.sf45 1) rfl), h (.bfS 160 8) rfl⟩

end Sys2Proof.Machine
end

section
/-! PROOFS. The field reader (40_field_reader.md R150 to R160): a bounds-checked read gives the sum of its bytes, a bit
field the sum of its positions, and a signed result is the two's-complement reading of the unsigned one. -/

namespace Sys2Proof.Machine

/-! The value of a read. -/

theorem byteAt_drop (P : List Byte) (off k : Nat) : byteAt (P.drop off) k = byteAt P (off + k) := by
  simp [byteAt, List.getD_eq_getElem?_getD]

/-- The bytes of a sum counted from its own offset. -/
theorem leSum_drop (P : List Byte) (off n : Nat) : leSum (P.drop off) 0 n = leSum P off n := by
  simp [leSum, byteAt_drop]

/-- The first byte of a list stands below the sum of the others. -/
theorem leSum_cons_succ (b : Byte) (P : List Byte) (n : Nat) :
    leSum (b :: P) 0 (n + 1) = b.toNat + 256 * leSum P 0 n := by
  have hbyte (k : Nat) : byteAt (b :: P) (k + 1) * 2 ^ (8 * (k + 1)) = 256 * (byteAt P k * 2 ^ (8 * k)) := by
    have hnext : byteAt (b :: P) (k + 1) = byteAt P k := rfl
    rw [hnext, Nat.mul_succ, Nat.pow_add]
    ring
  have hzero : byteAt (b :: P) 0 = b.toNat := rfl
  simp [leSum, Finset.sum_range_succ', Finset.mul_sum, hbyte, hzero, Nat.add_comm]

theorem leSum_nil (off n : Nat) : leSum [] off n = 0 := by simp [leSum, byteAt]

/-- The value of the first `n` bytes; bytes past the end count 0 on both sides. -/
theorem leNat_take_eq_leSum (P : List Byte) (n : Nat) : leNat (P.take n) = leSum P 0 n := by
  induction P generalizing n with
  | nil => simp [leSum_nil]
  | cons b P ih =>
    cases n with
    | zero => rfl
    | succ n => rw [List.take_succ_cons, leNat_cons, ih, leSum_cons_succ]

/-- A read inside the payload, as the spec's sum (00_scope.md R14). -/
theorem memRead_eq_leSum {P : List Byte} {off n : Nat} (h : off + n ≤ P.length) :
    memRead P off n = .ok (leSum P off n) := by
  rw [memRead_ok h, leNat_take_eq_leSum, leSum_drop]

theorem leSum_lt {P : List Byte} {off n : Nat} (h : off + n ≤ P.length) : leSum P off n < 2 ^ (8 * n) := by
  rw [Nat.pow_mul]
  exact memRead_lt (memRead_eq_leSum h)

/-- Sign extension is the two's-complement reading: the top bit of an `N`-bit value says which half it lies in
(00_scope.md R13). -/
theorem sext_eq_twos {N v : Nat} (hN : 0 < N) (hv : v < 2 ^ N) : sext N v = twos N v := by
  rcases Nat.lt_or_ge v (2 ^ (N - 1)) with hlow | hhigh
  · have htop : v / 2 ^ (N - 1) = 0 := Nat.div_eq_of_lt hlow
    simp [sext_of_lt hlow hN, twos, htop]
  · have htop : v / 2 ^ (N - 1) = 1 := by
      have hpow : 2 ^ (N - 1) * 2 = 2 ^ N := Nat.two_pow_pred_mul_two hN
      exact Nat.div_eq_of_lt_le (by omega) (by omega)
    simp [sext_of_ge hhigh hv, twos, htop]

/-! The effect of a read. -/

theorem zextResult_eq_map (r : Except Exc Nat) : zextResult r = r.map Nat.cast := by cases r <;> rfl

theorem rdI32_eq_map (P : List Byte) (off : Nat) : rdI32 P off = (memRead P off 4).map (sext 32) := by
  unfold rdI32
  cases memRead P off 4 <;> rfl

theorem rdI64_eq_map (P : List Byte) (off : Nat) : rdI64 P off = (memRead P off 8).map (sext 64) := by
  unfold rdI64
  cases memRead P off 8 <;> rfl

/-- An offset wire is a u16, so `ERR.off` is the offset itself (10_state.md R45). -/
theorem raise_shortPayload (s : State) (off : BitVec 16) (n : Nat) :
    s.raise (.shortPayload off.toNat n) = s.erred (shortErr s off.toNat n) := by
  rw [State.raise_eq, errRec, errOff_of_lt off.isLt]
  rfl

section Read

variable {i : Instr} {s : State} {off : BitVec 16} {n : Nat}

/-- What a read with the conversion `f` does: inside the payload it writes what `f` makes of the sum; a read that
leaves the payload takes `ShortPayload` (40_field_reader.md R150), whatever its conversion. -/
theorem read_effect {f : Nat → Int} (hi : exec i s = .next (readerResult s ((memRead s.pay off.toNat n).map f))) :
    (off.toNat + n ≤ s.pay.length → exec i s = .next { s with rd := f (leSum s.pay off.toNat n) }) ∧
    (s.pay.length < off.toNat + n → exec i s = .next (s.erred (shortErr s off.toNat n))) := by
  constructor
  · intro h
    rw [hi, memRead_eq_leSum h]
    rfl
  · intro h
    rw [hi, memRead_short h]
    exact congrArg Host.Outcome.next (raise_shortPayload s off n)

/-- A signed read extends the sign from the top bit of its last byte. -/
theorem signedRead_effect (hn : 0 < n)
    (hi : exec i s = .next (readerResult s ((memRead s.pay off.toNat n).map (sext (8 * n))))) :
    (off.toNat + n ≤ s.pay.length → exec i s = .next { s with rd := twos (8 * n) (leSum s.pay off.toNat n) }) ∧
    (s.pay.length < off.toNat + n → exec i s = .next (s.erred (shortErr s off.toNat n))) := by
  obtain ⟨hinside, houtside⟩ := read_effect hi
  refine ⟨fun h => ?_, houtside⟩
  rw [hinside h, sext_eq_twos (by omega) (leSum_lt h)]

end Read

section ExecRead

variable (off : BitVec 16) (s : State)

theorem exec_rdU8 : exec (.rdU8 off) s = .next (readerResult s ((memRead s.pay off.toNat 1).map Nat.cast)) :=
  congrArg (fun r => Host.Outcome.next (readerResult s r)) (zextResult_eq_map _)

theorem exec_rdU16 : exec (.rdU16 off) s = .next (readerResult s ((memRead s.pay off.toNat 2).map Nat.cast)) :=
  congrArg (fun r => Host.Outcome.next (readerResult s r)) (zextResult_eq_map _)

theorem exec_rdU32 : exec (.rdU32 off) s = .next (readerResult s ((memRead s.pay off.toNat 4).map Nat.cast)) :=
  congrArg (fun r => Host.Outcome.next (readerResult s r)) (zextResult_eq_map _)

theorem exec_rdI32 : exec (.rdI32 off) s = .next (readerResult s ((memRead s.pay off.toNat 4).map (sext 32))) :=
  congrArg (fun r => Host.Outcome.next (readerResult s r)) (rdI32_eq_map _ _)

theorem exec_rdI64 : exec (.rdI64 off) s = .next (readerResult s ((memRead s.pay off.toNat 8).map (sext 64))) :=
  congrArg (fun r => Host.Outcome.next (readerResult s r)) (rdI64_eq_map _ _)

end ExecRead

/-- Settles O23: the three reads are one checked read of 1, 2 and 4 bytes, its result zero-extended. -/
theorem unsignedReads : Obligations.UnsignedReads := by
  intro s off
  obtain ⟨hu8, hu8'⟩ := read_effect (exec_rdU8 off s)
  obtain ⟨hu16, hu16'⟩ := read_effect (exec_rdU16 off s)
  obtain ⟨hu32, hu32'⟩ := read_effect (exec_rdU32 off s)
  exact ⟨fun _ _ => ⟨rfl, rfl, rfl⟩, hu8, hu8', hu16, hu16', hu32, hu32'⟩

/-- Settles O24: the two reads are one checked read of 4 and 8 bytes, its result sign-extended. -/
theorem signedReads : Obligations.SignedReads := by
  intro s off
  obtain ⟨hi32, hi32'⟩ := signedRead_effect (by decide) (exec_rdI32 off s)
  obtain ⟨hi64, hi64'⟩ := signedRead_effect (by decide) (exec_rdI64 off s)
  exact ⟨fun _ _ => ⟨rfl, rfl⟩, hi32, hi32', hi64, hi64'⟩

/-! The bit fields. -/

/-- Position `p` from the left of the string is bit `239 - p` of its number (00_scope.md R12). -/
theorem frmBit_eq_div_mod {frm : BitVec 240} {p : Nat} (h : p < 240) :
    frmBit frm p = frm.toNat / 2 ^ (239 - p) % 2 := by
  have hbit : frm.getMsbD p = decide (frm.toNat / 2 ^ (239 - p) % 2 = 1) := by
    rw [BitVec.getMsbD_eq_getLsbD, decide_eq_true h, Bool.true_and, BitVec.getLsbD,
      Nat.testBit_eq_decide_div_mod_eq]
  rcases Nat.mod_two_eq_zero_or_one (frm.toNat / 2 ^ (239 - p)) with h0 | h1
  · simp [frmBit, hbit, h0]
  · simp [frmBit, hbit, h1]

/-- One more position shifts the field left and stands at its right end. -/
theorem frmSum_succ (frm : BitVec 240) (a n : Nat) :
    frmSum frm a (n + 1) = 2 * frmSum frm a n + frmBit frm (a + n) := by
  have hshift : ∀ k ∈ Finset.range n,
      frmBit frm (a + k) * 2 ^ (n + 1 - 1 - k) = 2 * (frmBit frm (a + k) * 2 ^ (n - 1 - k)) := by
    intro k hk
    have hexp : n + 1 - 1 - k = n - 1 - k + 1 := by
      have := Finset.mem_range.1 hk
      omega
    rw [hexp, Nat.pow_succ]
    ring
  rw [frmSum, Finset.sum_range_succ, Finset.sum_congr rfl hshift, ← Finset.mul_sum]
  simp [frmSum]

theorem bitField_succ {frm : BitVec 240} {a n : Nat} (h : a + n < 240) :
    bitField frm a (n + 1) = 2 * bitField frm a n + frmBit frm (a + n) := by
  have hlong : 240 - (a + (n + 1)) = 239 - (a + n) := by omega
  have hshort : 240 - (a + n) = 239 - (a + n) + 1 := by omega
  rw [bitField, bitField, frmBit_eq_div_mod h, hlong, hshort, Nat.pow_succ', Nat.mod_mul, Nat.pow_succ,
    ← Nat.div_div_eq_div_mul, Nat.add_comm]

/-- A bit field inside the string, as the spec's sum (00_scope.md R12). -/
theorem bitField_eq_frmSum {frm : BitVec 240} {a n : Nat} (h : a + n ≤ 240) : bitField frm a n = frmSum frm a n := by
  induction n with
  | zero => simp [bitField, frmSum, Nat.mod_one]
  | succ n ih => rw [bitField_succ (by omega), frmSum_succ, ih (by omega)]

theorem bitField_lt (frm : BitVec 240) (a n : Nat) : bitField frm a n < 2 ^ n := Nat.mod_lt _ (Nat.two_pow_pos n)

theorem exec_bfU (a : BitVec 8) (n : BitVec 6) (s : State) :
    exec (.bfU a n) s = .next { s with rd := bfU s.frm a.toNat n.toNat } := rfl

theorem exec_bfS (a : BitVec 8) (n : BitVec 6) (s : State) :
    exec (.bfS a n) s = .next { s with rd := bfS s.frm a.toNat n.toNat } := rfl

section BitField

variable {a n : Nat} (hn : 1 ≤ n) (hn' : n ≤ 24) (hend : a + n ≤ 240)
include hn hn' hend

theorem bfInRange_intro : bfInRange a n = true := decide_eq_true ⟨hn, hn', hend⟩

theorem bfU_eq_frmSum (frm : BitVec 240) : bfU frm a n = frmSum frm a n := by
  rw [bfU_of_range (bfInRange_intro hn hn' hend), bitField_eq_frmSum hend]

theorem bfS_eq_twos (frm : BitVec 240) : bfS frm a n = twos n (frmSum frm a n) := by
  rw [bfS_of_range (bfInRange_intro hn hn' hend), sext_eq_twos hn (bitField_lt frm a n), bitField_eq_frmSum hend]

end BitField

/-- Settles O25: the field's value is the sum over its positions, by induction on its width. -/
theorem unsignedBitField : Obligations.UnsignedBitField := by
  intro s a n hn hn' hend
  refine ⟨fun _ => rfl, ?_⟩
  rw [exec_bfU, bfU_eq_frmSum hn hn' hend]

/-- Settles O26: an `n`-bit field is below `2 ^ n`, where sign extension is the two's-complement reading. -/
theorem signedBitField : Obligations.SignedBitField := by
  intro s a n hn hn' hend
  refine ⟨fun _ => rfl, ?_⟩
  rw [exec_bfS, bfS_eq_twos hn hn' hend]

/-- Settles O27: neither operation tests its operands before it writes the result output; out of range the value is
that of the configuration (log 7). -/
theorem bitFieldRunsOnEveryOperand : Obligations.BitFieldRunsOnEveryOperand :=
  fun s a n => ⟨⟨_, exec_bfU a n s⟩, ⟨_, exec_bfS a n s⟩⟩

end Sys2Proof.Machine
end

section
/-! PROOFS. The frame synchronizer, operation by operation (41_frame_sync.md R180 to R191): what a byte selects in
each state, and what an append does, as equations. -/

namespace Sys2Proof.Machine

/-! The byte a state selects on (41_frame_sync.md R180). -/

theorem acceptByte_idle {s : State} (h : s.st = .idle) (b : Byte) :
    acceptByte b s = if b = 0xB5 then .next (s.setSync .seen1 s.cnt) else .next s := by
  rw [acceptByte, h, decodeByte_idle]
  split_ifs <;> rfl

theorem acceptByte_seen1 {s : State} (h : s.st = .seen1) (b : Byte) :
    acceptByte b s = if b = 0x62 then .next (s.setSync .acc 0) else .next (s.setSync .idle s.cnt) := by
  rw [acceptByte, h, decodeByte_seen1]
  split_ifs <;> rfl

theorem acceptByte_acc {s : State} (h : s.st = .acc) (b : Byte) : acceptByte b s = execSyncAccAppend b s := by
  rw [acceptByte, h, decodeByte_acc]
  rfl

/-- Settles O1: the first sync byte is the hit of `IDLE`. -/
theorem syncIdleHitGoesToSeen1 : Obligations.SyncIdleHitGoesToSeen1 := by
  refine fun s => ⟨fun h => ?_, rfl⟩
  rw [h, decodeByte_idle, if_pos rfl]

/-- Settles O2: `IDLE` hits on one byte alone. -/
theorem syncIdleMissChangesNothing : Obligations.SyncIdleMissChangesNothing := by
  refine fun s b hb => ⟨fun h => ?_, rfl⟩
  rw [h, decodeByte_idle, if_neg hb]

/-- Settles O3: the second sync byte is the hit of `SEEN1`. -/
theorem syncSeen1HitEntersAcc : Obligations.SyncSeen1HitEntersAcc := by
  refine fun s => ⟨fun h => ?_, rfl⟩
  rw [h, decodeByte_seen1, if_pos rfl]

/-- Settles O4: in `SEEN1` the byte `0xB5` is a miss like any other. -/
theorem syncSeen1MissReturnsToIdle : Obligations.SyncSeen1MissReturnsToIdle := by
  refine fun s b hb => ⟨fun h => ?_, rfl⟩
  rw [h, decodeByte_seen1, if_neg hb]

/-! The append: the byte is stored, then the length tests (41_frame_sync.md R185). -/

section Append

variable {s : State} {b : Byte} {L : Nat}

theorem appended_stored (s : State) (b : Byte) : appended s b (s.stored b) := fun a =>
  Memory.read_write s.buf s.cnt.toNat a b

theorem declares_stored : (s.stored b).buf.declares L ↔ s.declaresAfter b L := by
  simp only [Memory.declares, State.declaresAfter, appended_stored s b _]

theorem declaresAfter_lt (h : s.declaresAfter b L) : L < 65536 := by
  obtain ⟨lo, hi, _, _, rfl⟩ := h
  have hlo := lo.isLt
  have hhi := hi.isLt
  omega

theorem execSyncAccAppend_eq (hcnt : s.cnt.toNat < s.par.bufCap) :
    execSyncAccAppend b s = afterAppend (s.stored b) (s.cnt.toNat + 1) := by
  rcases execSyncAccAppend_cases b s with ⟨hcap, _⟩ | ⟨_, he⟩
  · omega
  · exact he

/-- Before the fourth byte, and from there on with the frame fitting and incomplete, the block keeps accumulating. -/
theorem execSyncAccAppend_continues (hcnt : s.cnt.toNat < s.par.bufCap)
    (hlen : s.cnt.toNat + 1 < 4 ∨ ∃ L, s.declaresAfter b L ∧ 4 ≤ s.cnt.toNat + 1 ∧ s.cnt.toNat + 1 ≠ L + 6 ∧
      (s.cnt.toNat + 1 = 4 → L + 6 ≤ s.par.bufCap)) :
    execSyncAccAppend b s = .next (s.stored b) := by
  rw [execSyncAccAppend_eq hcnt]
  rcases hlen with hc | ⟨L, hL, h4, hne, hfits⟩
  · exact afterAppend_header hc
  · have hover : ¬(s.cnt.toNat + 1 = 4 ∧ (s.stored b).par.bufCap < L + 6) := fun ⟨hc, hlt⟩ =>
      absurd (hfits hc) (Nat.not_le.2 hlt)
    exact afterAppend_continue (declaredLength_eq_ok.2 (declares_stored.2 hL)) hne h4 hover

theorem execSyncAccAppend_overflows (hcnt : s.cnt.toNat = 3) (hcap : 3 < s.par.bufCap) (hL : s.declaresAfter b L)
    (hlt : s.par.bufCap < L + 6) : execSyncAccAppend b s = .next ((s.stored b).setSync .idle 0) := by
  rw [execSyncAccAppend_eq (hcnt ▸ hcap)]
  exact afterAppend_overflow (declaredLength_eq_ok.2 (declares_stored.2 hL)) (by omega) hlt

/-- The last byte of a frame: `bs` are the frame's bytes as they then stand in the buffer. -/
theorem execSyncAccAppend_completes {bs : List Byte} (hcnt : s.cnt.toNat < s.par.bufCap)
    (hlast : s.cnt.toNat + 1 = L + 6) (hL : s.declaresAfter b L)
    (hbs : (s.stored b).buf.fetchRange 0 (L + 6) = .ok bs) :
    execSyncAccAppend b s = handOn ((s.stored b).setSync .idle 0) (frameOf bs L) := by
  have hfetch : (s.stored b).buf.fetchRange 0 (L + hdrLen + trlLen) = .ok bs := hbs
  rw [execSyncAccAppend_eq hcnt, afterAppend_complete (declaredLength_eq_ok.2 (declares_stored.2 hL)) hlast
    (by omega) (by omega), complete, hfetch]

end Append

/-- Settles O5: neither length test fires, and the state is the one with the byte stored. -/
theorem appendContinues : Obligations.AppendContinues := by
  intro s b hcnt hlen
  refine ⟨fun h => ?_, s.stored b, execSyncAccAppend_continues hcnt hlen, appended_stored s b, rfl⟩
  rw [h, decodeByte_acc]

/-- Settles O6: the largest length a u16 holds fits the default buffer. -/
theorem overflowGuardDiscards : Obligations.OverflowGuardDiscards := by
  constructor
  · intro s b L hcnt hcap hL hlt
    exact ⟨_, execSyncAccAppend_overflows hcnt hcap hL hlt, appended_stored s b, rfl⟩
  · intro s b L hcap hL
    have := declaresAfter_lt hL
    omega

/-! Completion (41_frame_sync.md R187, R189, R194). -/

/-- The dispatcher runs the operation that the class and id select (42_dispatch.md R220). -/
theorem dispatchMessage_eq_exec (s : State) :
    dispatchMessage s = exec (decodeFrame (opcodeOf s.cls s.id)) s := by
  have hraw : opcodeOf clsTrk idRaw = 0x030A := rfl
  have hnav : opcodeOf clsTrk idNav = 0x030F := rfl
  rw [dispatchMessage, decodeFrame_eq, hraw, hnav]
  split_ifs <;> rfl

theorem handOn_discards {s : State} {f : FrameRec} (h : s.par.checkChecksum = true ∧ f.ckOk = false) :
    handOn s f = .next s := if_pos h

/-- A frame that is handed on is dispatched, and whatever its decoder meets the message ends. -/
theorem handOn_dispatches {s : State} {f : FrameRec} (h : ¬(s.par.checkChecksum = true ∧ f.ckOk = false)) :
    ∃ u, exec (decodeFrame (opcodeOf f.cls f.id)) ((s.beginMessage f.cls f.id f.payload).emit [.frame f]) = .next u ∧
      handOn s f = .next u.endMessage := by
  obtain ⟨u, hu, _⟩ := exec_inner_changesOnlyWork ⟨_, (encode_decodeFrame (opcodeOf f.cls f.id)).2⟩
    ((s.beginMessage f.cls f.id f.payload).emit [.frame f])
  refine ⟨u, hu, ?_⟩
  rw [handOn, if_neg h, dispatchMessage_eq_exec]
  exact onNext_eq_next.2 ⟨u, hu, rfl⟩

/-- The record of bytes that a function gives. -/
theorem frameOf_map_range (f : Nat → Byte) (L : Nat) : frameOf ((List.range (L + 6)).map f) L =
    { cls := f 0, id := f 1, len := BitVec.ofNat 16 L, payload := (List.range L).map (fun k => f (4 + k)),
      ckA := f (L + 4), ckB := f (L + 5),
      ckOk := decide ((f (L + 4), f (L + 5)) = fletcher ((List.range (L + 4)).map f)) } := by
  have hget : ∀ a < L + 6, ((List.range (L + 6)).map f).getD a 0 = f a := by
    intro a ha
    simp [List.getD, ha]
  have hbody : ((List.range (L + 6)).map f).take (L + 4) = (List.range (L + 4)).map f := by
    rw [← List.map_take, List.take_range, Nat.min_eq_left (by omega)]
  have hpay : (((List.range (L + 6)).map f).drop 4).take L = (List.range L).map (fun k => f (4 + k)) := by
    apply List.ext_getElem
    · simp
    · simp
  simp only [frameOf, ckOkFlag, hdrLen, hget _ (show 0 < L + 6 by omega), hget _ (show 1 < L + 6 by omega),
    hget _ (show L + 4 < L + 6 by omega), hget _ (show L + 4 + 1 < L + 6 by omega), hbody, hpay]

/-- Settles O7: the bytes are fetched as the buffer holds them after the append, and the frame made of them is handed
on. -/
theorem appendCompletesFrame : Obligations.AppendCompletesFrame := by
  intro s b L f hcnt hlast hL hf ok fr m
  have hfetch : (s.stored b).buf.fetchRange 0 (L + 6) = .ok ((List.range (L + 6)).map f) :=
    Memory.fetchRange_ok fun a ha => by rw [Nat.zero_add, appended_stored s b a, hf a ha]
  have happ : execSyncAccAppend b s = handOn m fr := by
    rw [execSyncAccAppend_completes hcnt hlast hL hfetch, frameOf_map_range]
    rfl
  constructor
  · intro hwrong
    exact happ.trans (handOn_discards hwrong)
  · intro hok
    obtain ⟨u, hu, hon⟩ := handOn_dispatches (s := m) (f := fr) hok
    exact ⟨u, hu, happ.trans hon⟩

/-- An accepted byte leaves nothing counted outside `ACC`. -/
theorem acceptByte_cntZero {b : Byte} {s t : State} (hs : s.st ≠ .acc → s.cnt = 0) (h : acceptByte b s = .next t)
    (ht : t.st ≠ .acc) : t.cnt = 0 := by
  rcases acceptByte_cases b s with ⟨hst, he | he⟩ | ⟨hst, he | he⟩ | ⟨hst, he⟩
  · obtain rfl := next_unique he h
    exact hs (by simp [hst])
  · obtain rfl := next_unique he h
    exact hs ht
  · obtain rfl := next_unique he h
    exact absurd rfl ht
  · obtain rfl := next_unique he h
    exact hs (by simp [hst])
  · rcases (execSyncAccAppend_next (he.symm.trans h)).2 with ⟨rfl, _⟩ | hidle
    · exact absurd hst ht
    · exact hidle.cnt

/-- Settles O9, by the four ways a state follows another in one step. -/
theorem leavingAccEmptiesBuffer : Obligations.LeavingAccEmptiesBuffer := by
  intro s t hs hstep ht
  cases stepsTo_of_step hstep with
  | idles is => exact hs ht
  | resets u level hpar => rfl
  | runsInner hwork => exact hwork.cnt.trans (hs (hwork.st ▸ ht))
  | @acceptsByte b rest u hacc => exact acceptByte_cntZero (s := s.setInq rest) (t := u) hs hacc ht

end Sys2Proof.Machine
end

section
/-! PROOFS. The checksum (41_frame_sync.md R193) in closed form. -/

namespace Sys2Proof.Machine

/-- The bytes before the others in a sum over positions. -/
theorem sum_byteAt_cons (b : Byte) (bs : List Byte) :
    ∑ k ∈ Finset.range (b :: bs).length, byteAt (b :: bs) k =
      b.toNat + ∑ k ∈ Finset.range bs.length, byteAt bs k := by
  rw [List.length_cons, Finset.sum_range_succ', Nat.add_comm]
  rfl

theorem sum_weighted_byteAt_cons (b : Byte) (bs : List Byte) :
    ∑ k ∈ Finset.range (b :: bs).length, ((b :: bs).length - k) * byteAt (b :: bs) k =
      (bs.length + 1) * b.toNat + ∑ k ∈ Finset.range bs.length, (bs.length - k) * byteAt bs k := by
  rw [List.length_cons, Finset.sum_range_succ', Nat.add_comm]
  simp only [Nat.add_sub_add_right]
  rfl

/-- The loop from a running pair: the first sum goes on, and into the second it goes once for every byte. -/
theorem fletcherFrom_modEq (ca cb : Byte) (bs : List Byte) :
    (fletcherFrom ca cb bs).1.toNat ≡ ca.toNat + ∑ k ∈ Finset.range bs.length, byteAt bs k [MOD 256] ∧
    (fletcherFrom ca cb bs).2.toNat ≡ cb.toNat + bs.length * ca.toNat +
      ∑ k ∈ Finset.range bs.length, (bs.length - k) * byteAt bs k [MOD 256] := by
  induction bs generalizing ca cb with
  | nil => simp [fletcherFrom, Nat.ModEq.refl]
  | cons b bs ih =>
    have hca : (ca + b).toNat ≡ ca.toNat + b.toNat [MOD 256] := by
      rw [BitVec.toNat_add]
      exact Nat.mod_modEq _ _
    have hcb : (cb + (ca + b)).toNat ≡ cb.toNat + (ca.toNat + b.toNat) [MOD 256] := by
      rw [BitVec.toNat_add]
      exact (Nat.mod_modEq _ _).trans (hca.add_left _)
    obtain ⟨ihA, ihB⟩ := ih (ca + b) (cb + (ca + b))
    rw [sum_byteAt_cons, sum_weighted_byteAt_cons]
    constructor
    · refine ihA.trans ((hca.add_right _).trans ?_)
      rw [Nat.add_assoc]
    · refine ihB.trans (((hcb.add (hca.mul_left _)).add_right _).trans ?_)
      rw [List.length_cons]
      ring_nf
      rfl

/-- Settles O8: the loop begins with both sums 0. -/
theorem fletcherIsTheTwoSums : Obligations.FletcherIsTheTwoSums := by
  intro bs
  obtain ⟨hA, hB⟩ := fletcherFrom_modEq 0 0 bs
  have hlt : ∀ x : Byte, x.toNat % 256 = x.toNat := fun x => Nat.mod_eq_of_lt x.isLt
  simp only [Nat.ModEq, hlt] at hA hB
  constructor
  · simpa [fletcher] using hA
  · simpa [fletcher] using hB

end Sys2Proof.Machine
end

section
/-! PROOFS. Runs, and what they do to bytes as the transport offers them (41_frame_sync.md R195, 10_state.md R31, R40):
a byte's operation neither reads nor moves the block's ports, so what is offered after it does not matter to it. -/

namespace Sys2Proof.Machine

/-! Runs. -/

theorem reaches_zero {s t : State} : Reaches 0 s t ↔ s = t :=
  ⟨Host.Outcome.next.inj, congrArg Host.Outcome.next⟩

theorem reaches_succ {n : Nat} {s t : State} : Reaches (n + 1) s t ↔ ∃ u, step s = .next u ∧ Reaches n u t := by
  simp only [Reaches, Host.Core.run]
  constructor
  · intro h
    split at h
    · exact ⟨_, ‹_›, h⟩
    · cases h
    · cases h
  · rintro ⟨u, hu, h⟩
    rw [show core.step s = .next u from hu]
    exact h

theorem reaches_one {s t : State} : Reaches 1 s t ↔ step s = .next t := by
  simp [reaches_succ, reaches_zero]

/-- A run in two parts. -/
theorem reaches_add {m n : Nat} {s t : State} : Reaches (m + n) s t ↔ ∃ u, Reaches m s u ∧ Reaches n u t := by
  induction m generalizing s with
  | zero => simp [reaches_zero]
  | succ m ih =>
    rw [Nat.succ_add, reaches_succ]
    simp only [ih, reaches_succ]
    constructor
    · rintro ⟨v, hv, u, hu, ht⟩
      exact ⟨u, ⟨v, hv, hu⟩, ht⟩
    · rintro ⟨u, ⟨v, hv, hu⟩, ht⟩
      exact ⟨v, hv, u, hu, ht⟩

/-- The second part of a run starts at the one state the first part reaches. -/
theorem reaches_add_iff {m n : Nat} {s t u : State} (h : Reaches m s t) : Reaches (m + n) s u ↔ Reaches n t u := by
  rw [reaches_add]
  constructor
  · rintro ⟨v, hv, hu⟩
    exact next_unique h hv ▸ hu
  · exact fun hu => ⟨t, h, hu⟩

/-! The step of an offered byte. -/

theorem step_of_byte {s : State} {b : Byte} {rest : List Input} (hrst : s.rst = false) (hbusy : s.busy = false)
    (hop : s.op = none) (hinq : s.inq = .byte b :: rest) :
    step s = onNext State.deliver (acceptByte b (s.setInq rest)) := by
  rcases step_cases s with ⟨h, _⟩ | ⟨_, k, h, _⟩ | ⟨_, _, h, _⟩ | ⟨_, _, _, he⟩
  · simp [h] at hrst
  · simp [h] at hop
  · simp [h] at hbusy
  · rw [he, takeMove, hinq]

theorem State.ready.step_byte {s : State} (h : s.ready) {b : Byte} {rest : List Input}
    (hinq : s.inq = .byte b :: rest) : step s = onNext State.deliver (acceptByte b (s.setInq rest)) := by
  obtain ⟨hrst, hbusy, hop, _⟩ := h
  exact step_of_byte hrst hbusy hop hinq

theorem step_of_op {s : State} {k : InnerKey} (hrst : s.rst = false) (hop : s.op = some k) :
    step s = onNext State.deliver (runKey (decodeInner k) s.clearOp) := by
  rcases step_cases s with ⟨h, _⟩ | ⟨_, k', h, he⟩ | ⟨_, h, _⟩ | ⟨_, h, _⟩
  · simp [h] at hrst
  · obtain rfl := Option.some.inj (h.symm.trans hop)
    exact he
  · simp [h] at hop
  · simp [h] at hop

/-- Settles O19: a ready block accepts the byte, and an operation issued by itself goes before what is offered. -/
theorem stepRunsTheDecodedOperation : Obligations.StepRunsTheDecodedOperation := by
  constructor
  · intro s b rest i hrst hbusy hop hinq hdec
    have haccept : acceptByte b (s.setInq rest) = exec i (s.setInq rest) := by
      rw [acceptByte, State.setInq_st, hdec, runKey]
    rw [step_of_byte hrst hbusy hop hinq, haccept]
    rfl
  · intro s k i hrst hop hdec
    rw [step_of_op hrst hop, hdec]
    rfl

/-! What a decoder does not see. -/

theorem onNext_onNext_comm {f g f' g' : State → State} (h : ∀ s, f (g s) = g' (f' s))
    (o : Host.Outcome State Fault Refusal) : onNext f (onNext g o) = onNext g' (onNext f' o) := by
  cases o <;> simp [onNext, h]

/-- `f` changes nothing a decoder reads or writes, but for events put before those pending. -/
structure UnseenByDecoders (f : State → State) : Prop where
  par : ∀ s, (f s).par = s.par
  cls : ∀ s, (f s).cls = s.cls
  id : ∀ s, (f s).id = s.id
  pay : ∀ s, (f s).pay = s.pay
  setFrm : ∀ s F, f (s.setFrm F) = (f s).setFrm F
  setTr : ∀ s v, f (s.setTr v) = (f s).setTr v
  setStore : ∀ s S, f (s.setStore S) = (f s).setStore S
  dropWork : ∀ s, f s.dropWork = (f s).dropWork
  emit : ∀ s E, f (s.emit E) = (f s).emit E

namespace UnseenByDecoders

variable {f : State → State} (hf : UnseenByDecoders f) (s : State)
include hf

theorem raise (e : Exc) : f (s.raise e) = (f s).raise e := by
  simp only [State.raise, hf.emit, hf.dropWork, hf.cls, hf.id, hf.pay]

theorem rawDecode : rawDecode (f s) = f (rawDecode s) := by
  simp only [Machine.rawDecode, hf.par, hf.pay]
  split
  · rw [hf.raise]
  · split
    · rw [hf.raise]
    · rfl
    · simp only [State.setTr_tr]
      split
      · rw [hf.raise, hf.setTr]
      · rw [hf.emit, hf.setStore, hf.setTr]

theorem selectSubframe (hfrm : (f s).frm = s.frm) :
    selectSubframe (f s) = onNext f (selectSubframe s) := by
  simp only [Machine.selectSubframe, execSfBad, execSf1, execSf23, execSf45, hf.par, hfrm]
  split_ifs <;> simp only [onNext_next, hf.raise, hf.emit]

theorem execNavGps : execNavGps (f s) = onNext f (execNavGps s) := by
  rw [Machine.execNavGps, Machine.execNavGps, hf.pay]
  split
  · rw [onNext_next, hf.raise]
  · rw [← hf.setFrm]
    exact hf.selectSubframe _ (by rw [hf.setFrm]; rfl)

theorem execTrkRaw : execTrkRaw (f s) = onNext f (execTrkRaw s) := by
  rw [Machine.execTrkRaw, Machine.execTrkRaw, hf.pay]
  split
  · rw [onNext_next, hf.raise]
  · split_ifs
    · exact congrArg Host.Outcome.next (hf.rawDecode s)
    · rfl

theorem execTrkNav : execTrkNav (f s) = onNext f (execTrkNav s) := by
  rw [Machine.execTrkNav, Machine.execTrkNav, hf.pay, hf.par]
  split
  · rw [onNext_next, hf.raise]
  · split_ifs
    · exact hf.execNavGps s
    · rfl

/-- What the dispatcher runs, and so the message, comes out the same. -/
theorem dispatchMessage : dispatchMessage (f s) = onNext f (dispatchMessage s) := by
  rw [Machine.dispatchMessage, Machine.dispatchMessage, hf.cls, hf.id]
  split_ifs
  · exact hf.execTrkRaw s
  · exact hf.execTrkNav s
  · rfl

end UnseenByDecoders

/-! What a byte's operation does not see. -/

/-- `s` with the ports of `p`: the reset input, the issue port and the moves still to come. -/
def State.withPorts (s p : State) : State := { s with rst := p.rst, op := p.op, inq := p.inq }

theorem State.withPorts_self (s : State) : s.withPorts s = s := rfl

theorem unseenByDecoders_withPorts (p : State) : UnseenByDecoders (·.withPorts p) where
  par _ := rfl
  cls _ := rfl
  id _ := rfl
  pay _ := rfl
  setFrm _ _ := rfl
  setTr _ _ := rfl
  setStore _ _ := rfl
  dropWork _ := rfl
  emit _ _ := rfl

section Ports

variable (p s : State)

theorem handOn_withPorts (f : FrameRec) : handOn (s.withPorts p) f = onNext (·.withPorts p) (handOn s f) := by
  by_cases h : s.par.checkChecksum = true ∧ f.ckOk = false
  · rw [handOn_discards h, handOn_discards (s := s.withPorts p) h]
    rfl
  · rw [handOn, handOn, if_neg h, if_neg (show ¬((s.withPorts p).par.checkChecksum = true ∧ _) from h)]
    have hmsg := (unseenByDecoders_withPorts p).dispatchMessage
      ((s.beginMessage f.cls f.id f.payload).emit [.frame f])
    exact (congrArg (onNext State.endMessage) hmsg).trans
      (onNext_onNext_comm (g := (·.withPorts p)) (f' := State.endMessage) (fun _ => rfl) _)

theorem complete_withPorts (L : Nat) : complete (s.withPorts p) L = onNext (·.withPorts p) (complete s L) := by
  unfold complete
  rw [show (s.withPorts p).buf = s.buf from rfl]
  split
  · rfl
  · exact handOn_withPorts p (s.setSync .idle 0) _

theorem afterAppend_withPorts (c : Nat) :
    afterAppend (s.withPorts p) c = onNext (·.withPorts p) (afterAppend s c) := by
  unfold afterAppend
  rw [show (s.withPorts p).buf = s.buf from rfl, show (s.withPorts p).par = s.par from rfl]
  split
  · rfl
  · split
    · rfl
    · split_ifs
      · rfl
      · exact complete_withPorts p s _
      · rfl

theorem execSyncAccAppend_withPorts (b : Byte) :
    execSyncAccAppend b (s.withPorts p) = onNext (·.withPorts p) (execSyncAccAppend b s) := by
  rcases execSyncAccAppend_cases b s with ⟨hcap, he⟩ | ⟨hcnt, he⟩
  · rcases execSyncAccAppend_cases b (s.withPorts p) with ⟨_, he'⟩ | ⟨hcnt, _⟩
    · rw [he, he']
      rfl
    · exact absurd hcnt (Nat.not_lt.2 hcap)
  · rw [he, execSyncAccAppend_eq (s := s.withPorts p) hcnt]
    exact afterAppend_withPorts p (s.stored b) _

theorem acceptByte_withPorts (b : Byte) :
    acceptByte b (s.withPorts p) = onNext (·.withPorts p) (acceptByte b s) := by
  cases hst : s.st with
  | idle =>
    rw [acceptByte_idle hst, acceptByte_idle (s := s.withPorts p) hst]
    split_ifs <;> rfl
  | seen1 =>
    rw [acceptByte_seen1 hst, acceptByte_seen1 (s := s.withPorts p) hst]
    split_ifs <;> rfl
  | acc =>
    rw [acceptByte_acc hst, acceptByte_acc (s := s.withPorts p) hst]
    exact execSyncAccAppend_withPorts p s b

end Ports

/-- A byte's operation leaves the ports as they are: with its own ports given to it again a state does the same. -/
theorem acceptByte_keepsPorts {b : Byte} {s t : State} (h : acceptByte b s = .next t) : t = t.withPorts s := by
  have hown := acceptByte_withPorts s s b
  rw [State.withPorts_self, h] at hown
  exact Host.Outcome.next.inj hown

theorem acceptByte_setInq {b : Byte} {s t : State} (h : acceptByte b s = .next t) (is : List Input) :
    acceptByte b (s.setInq is) = .next (t.setInq is) := by
  have hports := acceptByte_withPorts (s.setInq is) s b
  rw [h] at hports
  rw [acceptByte_keepsPorts h]
  exact hports

theorem acceptByte_notBusy {b : Byte} {s t : State} (hs : s.busy = false) (h : acceptByte b s = .next t) :
    t.busy = false := by
  rcases acceptByte_cases b s with ⟨_, he | he⟩ | ⟨_, he | he⟩ | ⟨_, he⟩
  · exact next_unique he h ▸ hs
  · exact next_unique he h ▸ hs
  · exact next_unique he h ▸ hs
  · exact next_unique he h ▸ hs
  · rcases (execSyncAccAppend_next (he.symm.trans h)).2 with ⟨rfl, _⟩ | hidle
    · exact hs
    · exact hidle.busy hs

/-- After an accepted byte the block is ready for the next one. -/
theorem acceptByte_ready {b : Byte} {s t : State} (hs : s.ready) (h : acceptByte b s = .next t) :
    t.deliver.ready := by
  obtain ⟨hrst, hbusy, hop, _⟩ := hs
  have hports := acceptByte_keepsPorts h
  have hrst' : t.rst = (t.withPorts s).rst := congrArg State.rst hports
  have hop' : t.op = (t.withPorts s).op := congrArg State.op hports
  exact ⟨hrst'.trans hrst, acceptByte_notBusy (t := t) hbusy h, hop'.trans hop, rfl⟩

/-- What `bs` lead to from a ready state, they lead to whatever is offered after them, which then still is. -/
theorem reaches_offered_append {bs : List Byte} {s t : State} (hs : s.ready)
    (h : Reaches bs.length (s.setInq (offered bs)) t) (is : List Input) :
    Reaches bs.length (s.setInq (offered bs ++ is)) (t.setInq is) := by
  induction bs generalizing s with
  | nil =>
    obtain rfl := reaches_zero.1 h
    exact reaches_zero.2 rfl
  | cons b bs ih =>
    obtain ⟨u, hu, ht⟩ := reaches_succ.1 h
    have hstep : ∀ js, step (s.setInq (.byte b :: js)) = onNext State.deliver (acceptByte b (s.setInq js)) :=
      fun js => State.ready.step_byte (s := s.setInq (.byte b :: js)) hs rfl
    obtain ⟨v, hv, rfl⟩ := onNext_eq_next.1 ((hstep _).symm.trans hu)
    have hnext : step (s.setInq (.byte b :: (offered bs ++ is))) = .next (v.deliver.setInq (offered bs ++ is)) := by
      rw [hstep]
      exact onNext_eq_next.2 ⟨_, acceptByte_setInq hv _, rfl⟩
    have hinq : v.deliver.setInq (offered bs) = v.deliver := by
      have hports := congrArg State.inq (acceptByte_keepsPorts hv)
      exact (congrArg v.deliver.setInq hports).symm
    exact reaches_succ.2 ⟨_, hnext, ih (acceptByte_ready (s := s.setInq (offered bs)) hs hv) (hinq.symm ▸ ht)⟩

/-- Settles O14: the first part of the stream leads to `t` with the second part still offered. -/
theorem streamSplitLaw : Obligations.StreamSplitLaw := by
  intro s t u bs cs hs ht
  have hinq : offered (bs ++ cs) = offered bs ++ offered cs := List.map_append
  rw [hinq]
  exact (reaches_add_iff (reaches_offered_append hs ht (offered cs))).symm

end Sys2Proof.Machine
end

section
/-! PROOFS. The frame round trip (41_frame_sync.md R196): the block part way into a frame is given in full by the
bytes received, so that its run over the frame's bytes can be written down byte by byte. -/

namespace Sys2Proof.Machine

/-! The bytes of a frame. -/

/-- The bytes that follow the two sync bytes of `FRAME(c, i, p)`. -/
def frameTail (c i : Byte) (p : List Byte) : List Byte :=
  frameBody c i p ++ [(fletcher (frameBody c i p)).1, (fletcher (frameBody c i p)).2]

theorem frameBytes_eq (c i : Byte) (p : List Byte) : frameBytes c i p = 0xB5 :: 0x62 :: frameTail c i p := rfl

theorem length_frameTail (c i : Byte) (p : List Byte) : (frameTail c i p).length = p.length + 6 := by
  simp [frameTail, frameBody]

/-- The length bytes of a frame carry any length a u16 holds. -/
theorem frameTail_declares {c i : Byte} {p : List Byte} (hp : p.length < 65536) :
    ((frameTail c i p).getD 2 0).toNat + 256 * ((frameTail c i p).getD 3 0).toNat = p.length := by
  have hlo : ((frameTail c i p).getD 2 0).toNat = p.length % 256 := BitVec.toNat_ofNat _ _
  have hhi : ((frameTail c i p).getD 3 0).toNat = p.length / 256 % 256 := BitVec.toNat_ofNat _ _
  omega

/-- The record of a frame's own bytes: its checksum is right by construction. -/
theorem frameOf_frameTail (c i : Byte) (p : List Byte) : frameOf (frameTail c i p) p.length = goodFrame c i p := by
  have hlen : (frameBody c i p).length = p.length + 4 := rfl
  have hckA : (frameTail c i p).getD (p.length + 4) 0 = (fletcher (frameBody c i p)).1 := by
    simp [frameTail, hlen, List.getD]
  have hckB : (frameTail c i p).getD (p.length + 4 + 1) 0 = (fletcher (frameBody c i p)).2 := by
    simp [frameTail, hlen, List.getD]
  have hbody : (frameTail c i p).take (p.length + 4) = frameBody c i p := by
    rw [frameTail, ← hlen, List.take_left]
  have hpay : ((frameTail c i p).drop 4).take p.length = p := List.take_left
  have hok : ckOkFlag (frameBody c i p) (fletcher (frameBody c i p)).1 (fletcher (frameBody c i p)).2 = true :=
    decide_eq_true rfl
  simp only [frameOf, hdrLen, hckA, hckB, hbody, hpay, hok]
  rfl

/-! The block part way into a frame. -/

/-- The buffer once the first `k` of the bytes are stored, from address 0. -/
def Memory.load (m : Memory) (bs : List Byte) : Nat → Memory
  | 0 => m
  | k + 1 => (m.load bs k).write k (bs.getD k 0)

theorem Memory.read_load {m : Memory} {bs : List Byte} {k a : Nat} (ha : a < k) :
    (m.load bs k).read a = some (bs.getD a 0) := by
  induction k with
  | zero => omega
  | succ k ih =>
    rw [Memory.load, Memory.read_write]
    split
    · subst_vars; rfl
    · exact ih (by omega)

theorem Memory.fetchRange_load (m : Memory) (bs : List Byte) :
    (m.load bs bs.length).fetchRange 0 bs.length = .ok bs := by
  have hfetch := Memory.fetchRange_ok (m := m.load bs bs.length) (a := 0) (n := bs.length) (f := fun k => bs.getD k 0)
    fun k hk => by rw [Nat.zero_add, Memory.read_load hk]
  have hbs : (List.range bs.length).map (fun k => bs.getD k 0) = bs := by
    apply List.ext_getElem
    · simp
    · intro k hk hk'
      simp [hk']
  rw [hfetch, hbs]

/-- `s` once the synchronizer has taken the sync bytes and the first `k` of the bytes `bs`, the others and what
follows them still offered. -/
def State.receiving (s : State) (bs : List Byte) (rest : List Input) (k : Nat) : State :=
  { s with st := .acc, cnt := BitVec.ofNat 17 k, buf := s.buf.load bs k, inq := offered (bs.drop k) ++ rest }

/-- A ready block has nothing pending, so that delivery changes nothing. -/
theorem State.ready.deliver_eq {s : State} (hs : s.ready) : s.deliver = s := by
  obtain ⟨_, _, _, h⟩ := hs
  have hevq : s.deliver.evq = s.evq := h.symm
  have hout : s.deliver.out = s.out := by rw [State.deliver_out, h, List.append_nil]
  calc s.deliver = { s with evq := s.deliver.evq, out := s.deliver.out } := rfl
    _ = s := by rw [hevq, hout]

section Receiving

variable {s : State} {bs : List Byte} {L k : Nat} (rest : List Input)

theorem ready_receiving (h : s.ready) : (s.receiving bs rest k).ready := h

theorem receiving_cnt (hk : k < 2 ^ 17) : (s.receiving bs rest k).cnt.toNat = k :=
  (BitVec.toNat_ofNat _ _).trans (Nat.mod_eq_of_lt hk)

/-- The state before the next byte, that byte taken off what is offered, is the state after it but for the byte
itself. -/
theorem stored_receiving (hk : k < 2 ^ 17) (is : List Input) :
    ((s.receiving bs rest k).setInq is).stored (bs.getD k 0) = (s.receiving bs rest (k + 1)).setInq is := by
  have hbuf : (s.buf.load bs k).write (s.receiving bs rest k).cnt.toNat (bs.getD k 0) = s.buf.load bs (k + 1) := by
    rw [receiving_cnt rest hk]
    rfl
  have hcnt : BitVec.ofNat 17 k + 1 = BitVec.ofNat 17 (k + 1) := (BitVec.ofNat_add k 1).symm
  calc ((s.receiving bs rest k).setInq is).stored (bs.getD k 0)
    _ = { s with st := .acc, cnt := BitVec.ofNat 17 k + 1,
                 buf := (s.buf.load bs k).write (s.receiving bs rest k).cnt.toNat (bs.getD k 0), inq := is } := rfl
    _ = (s.receiving bs rest (k + 1)).setInq is := by rw [hbuf, hcnt]; rfl

theorem receiving_inq (hk : k < bs.length) :
    (s.receiving bs rest k).inq = .byte (bs.getD k 0) :: (s.receiving bs rest (k + 1)).inq := by
  have hbyte : bs.getD k 0 = bs[k] := by simp [List.getD, hk]
  calc (s.receiving bs rest k).inq = offered (bs.drop k) ++ rest := rfl
    _ = offered (bs[k] :: bs.drop (k + 1)) ++ rest := by rw [List.drop_eq_getElem_cons hk]
    _ = .byte (bs.getD k 0) :: (s.receiving bs rest (k + 1)).inq := by rw [hbyte]; rfl

/-- From the fourth byte on the buffer declares the frame's length. -/
theorem declaresAfter_receiving (hk : k < 2 ^ 17) (h4 : 4 ≤ k + 1) (is : List Input)
    (hL : (bs.getD 2 0).toNat + 256 * (bs.getD 3 0).toNat = L) :
    ((s.receiving bs rest k).setInq is).declaresAfter (bs.getD k 0) L := by
  rw [← declares_stored, stored_receiving rest hk]
  exact ⟨_, _, Memory.read_load (by omega), Memory.read_load (by omega), hL.symm⟩

theorem step_receiving_eq (hs : s.ready) (hk : k < bs.length) :
    step (s.receiving bs rest k) = onNext State.deliver (execSyncAccAppend (bs.getD k 0)
      ((s.receiving bs rest k).setInq (s.receiving bs rest (k + 1)).inq)) := by
  rw [(ready_receiving rest hs).step_byte (receiving_inq rest hk), acceptByte_acc rfl]

variable (hs : s.ready) (hcap : s.par.bufCap ≤ 65541) (hfits : L + 6 ≤ s.par.bufCap) (hlen : bs.length = L + 6)
  (hL : (bs.getD 2 0).toNat + 256 * (bs.getD 3 0).toNat = L)
include hs hcap hfits hlen hL

/-- Every byte but the frame's last. -/
theorem step_receiving (hk : k + 1 < L + 6) : step (s.receiving bs rest k) = .next (s.receiving bs rest (k + 1)) := by
  have hcnt : (s.receiving bs rest k).cnt.toNat = k := receiving_cnt rest (by omega)
  have happ : execSyncAccAppend (bs.getD k 0) ((s.receiving bs rest k).setInq (s.receiving bs rest (k + 1)).inq) =
      .next (s.receiving bs rest (k + 1)) := by
    rw [execSyncAccAppend_continues, stored_receiving rest (by omega)]
    · rfl
    · show (s.receiving bs rest k).cnt.toNat < s.par.bufCap
      omega
    · rw [State.setInq_cnt, hcnt]
      rcases Nat.lt_or_ge (k + 1) 4 with h4 | h4
      · exact .inl h4
      · exact .inr ⟨L, declaresAfter_receiving rest (by omega) h4 _ hL, h4, by omega, fun _ => hfits⟩
  rw [step_receiving_eq rest hs (by omega), happ, onNext_next,
    (ready_receiving rest hs).deliver_eq]

theorem reaches_receiving (hk : k < L + 6) : Reaches k (s.receiving bs rest 0) (s.receiving bs rest k) := by
  induction k with
  | zero => exact reaches_zero.2 rfl
  | succ k ih =>
    exact (reaches_add_iff (ih (by omega))).2 (reaches_one.2 (step_receiving rest hs hcap hfits hlen hL hk))

/-- The frame's last byte: the frame is read back from the buffer and handed on. -/
theorem step_receiving_last : step (s.receiving bs rest (L + 5)) =
    onNext State.deliver (handOn ((s.receiving bs rest (L + 6)).setSync .idle 0) (frameOf bs L)) := by
  have hcnt : (s.receiving bs rest (L + 5)).cnt.toNat = L + 5 := receiving_cnt rest (by omega)
  have hstored := stored_receiving (s := s) (bs := bs) (k := L + 5) rest (by omega) (s.receiving bs rest (L + 6)).inq
  have hbuf : (s.receiving bs rest (L + 6)).buf.fetchRange 0 (L + 6) = .ok bs := by
    rw [← hlen]
    exact Memory.fetchRange_load s.buf bs
  have happ := execSyncAccAppend_completes (s := (s.receiving bs rest (L + 5)).setInq (s.receiving bs rest (L + 6)).inq)
    (b := bs.getD (L + 5) 0) (L := L) (bs := bs)
    (show (s.receiving bs rest (L + 5)).cnt.toNat < s.par.bufCap by omega)
    (show (s.receiving bs rest (L + 5)).cnt.toNat + 1 = L + 6 by omega)
    (declaresAfter_receiving rest (by omega) (by omega) _ hL) (by rw [hstored]; exact hbuf)
  rw [step_receiving_eq rest hs (by omega), happ, hstored]
  rfl

end Receiving

theorem step_sync1 {s : State} {is : List Input} (hs : s.ready) (hst : s.st = .idle) (hinq : s.inq = .byte 0xB5 :: is) :
    step s = .next ((s.setInq is).setSync .seen1 s.cnt) := by
  rw [hs.step_byte hinq, acceptByte_idle (s := s.setInq is) hst, if_pos rfl, onNext_next,
    State.ready.deliver_eq (s := (s.setInq is).setSync .seen1 _) hs]
  rfl

theorem step_sync2 {s : State} {is : List Input} (hs : s.ready) (hst : s.st = .seen1)
    (hinq : s.inq = .byte 0x62 :: is) : step s = .next ((s.setInq is).setSync .acc 0) := by
  rw [hs.step_byte hinq, acceptByte_seen1 (s := s.setInq is) hst, if_pos rfl, onNext_next,
    State.ready.deliver_eq (s := (s.setInq is).setSync .acc 0) hs]

/-- The sync bytes take an idle block into `ACC` with nothing counted. -/
theorem reaches_receiving_zero {s : State} {bs : List Byte} {rest : List Input} (hs : s.ready) (hst : s.st = .idle)
    (hinq : s.inq = offered (0xB5 :: 0x62 :: bs) ++ rest) : Reaches 2 s (s.receiving bs rest 0) :=
  reaches_succ.2 ⟨_, step_sync1 hs hst hinq, reaches_one.2 (step_sync2 hs rfl rfl)⟩

/-! The message. -/

/-- `s` with the synchronizer and the moves to come of `p`, and one event before those pending. -/
def State.behind (s p : State) (e : Event) : State :=
  { s with st := p.st, cnt := p.cnt, buf := p.buf, inq := p.inq, evq := e :: s.evq }

theorem unseenByDecoders_behind (p : State) (e : Event) : UnseenByDecoders (·.behind p e) where
  par _ := rfl
  cls _ := rfl
  id _ := rfl
  pay _ := rfl
  setFrm _ _ := rfl
  setTr _ _ := rfl
  setStore _ _ := rfl
  dropWork _ := rfl
  emit _ _ := rfl

/-- A frame handed on behind the bytes received: its operation does what it does on the message alone. -/
theorem handOn_receiving {s : State} {bs : List Byte} {rest : List Input} {k : Nat} {f : FrameRec} (hs : s.evq = [])
    (hok : f.ckOk = true) :
    ∃ u, exec (decodeFrame (opcodeOf f.cls f.id)) (s.beginMessage f.cls f.id f.payload) = .next u ∧ u.out = s.out ∧
      handOn ((s.receiving bs rest k).setSync .idle 0) f =
        .next (u.behind ((s.receiving bs rest k).setSync .idle 0) (.frame f)).endMessage := by
  obtain ⟨u, hu, hout, _⟩ := dispatchMessage_addsNoFrame (s.beginMessage f.cls f.id f.payload)
  have hexec := dispatchMessage_eq_exec (s.beginMessage f.cls f.id f.payload)
  refine ⟨u, hexec.symm.trans hu, hout, ?_⟩
  have hmsg : ((((s.receiving bs rest k).setSync .idle 0).beginMessage f.cls f.id f.payload).emit [.frame f]) =
      (s.beginMessage f.cls f.id f.payload).behind ((s.receiving bs rest k).setSync .idle 0) (.frame f) := by
    simp only [State.emit, State.beginMessage, State.behind, State.setSync, State.receiving, hs, List.nil_append]
  rw [handOn, if_neg (by simp [hok]), hmsg, (unseenByDecoders_behind _ _).dispatchMessage, hu]
  rfl

/-- Settles O13: the sync bytes, the bytes up to the last, and the last one, which hands the frame on. -/
theorem frameRoundTrip : Obligations.FrameRoundTrip := by
  intro s c i p rest hs hst hcap hfits hinq
  have ⟨_, _, _, hevq⟩ := hs
  have hlen := length_frameTail c i p
  have hL := frameTail_declares (c := c) (i := i) (show p.length < 65536 by omega)
  have hsync : Reaches 2 s (s.receiving (frameTail c i p) rest 0) := reaches_receiving_zero hs hst hinq
  have hbody := reaches_receiving rest hs hcap hfits hlen hL (show p.length + 5 < p.length + 6 by omega)
  have hbefore : Reaches (p.length + 7) s (s.receiving (frameTail c i p) rest (p.length + 5)) := by
    rw [show p.length + 7 = 2 + (p.length + 5) by omega]
    exact (reaches_add_iff hsync).2 hbody
  obtain ⟨u, hu, hout, hon⟩ := handOn_receiving (s := s) (bs := frameTail c i p) (rest := rest) (k := p.length + 6)
    (f := goodFrame c i p) hevq rfl
  have hlast := step_receiving_last rest hs hcap hfits hlen hL
  rw [frameOf_frameTail, hon, onNext_next] at hlast
  refine ⟨⟨_, hbefore, rfl⟩, _, u, (reaches_add_iff hbefore).2 (reaches_one.2 hlast), hu, rfl, rfl, ?_, ?_⟩
  · show offered ((frameTail c i p).drop (p.length + 6)) ++ rest = rest
    rw [← hlen, List.drop_length]
    rfl
  · show u.out ++ .frame (goodFrame c i p) :: u.evq = _
    rw [hout]

end Sys2Proof.Machine
end

section
/-! PROOFS. The dispatcher (42_dispatch.md R221 to R224): a handled pair runs what the selecting byte of its payload
decodes to, every other pair runs nothing, and what a decoder emits is all of one kind. -/

namespace Sys2Proof.Machine

/-! The selecting byte (40_field_reader.md R151). -/

theorem rdU8_short {P : List Byte} {off : Nat} (h : P.length ≤ off) : rdU8 P off = .error (.shortPayload off 1) :=
  memRead_short (Nat.lt_succ_of_le h)

theorem rdU8_ok {P : List Byte} {off : Nat} (h : off < P.length) : rdU8 P off = .ok (P.getD off 0).toNat := by
  rw [rdU8, memRead_eq_leSum h]
  simp [leSum, byteAt]

/-- An operation that a key below the byte level selects answers a next state, and so does what runs it. -/
theorem answers_of_selects {i j : Instr} {k : InnerKey} {s : State} (hk : encode i = .inner k)
    (hsel : exec j s = exec i s) : ∃ u, exec i s = .next u ∧ exec j s = .next u := by
  obtain ⟨u, hu, _⟩ := exec_inner_changesOnlyWork ⟨k, hk⟩ s
  exact ⟨u, hu, hsel.trans hu⟩

/-! The raw measurement pair. -/

theorem exec_trkRaw_short {s : State} (h : s.pay = []) : exec .trkRaw s = .next (s.erred (shortErr s 0 1)) := by
  have hrd : rdU8 s.pay 0 = .error (.shortPayload 0 1) := rdU8_short (by simp [h])
  show execTrkRaw s = _
  rw [execTrkRaw, hrd]
  exact congrArg Host.Outcome.next (raise_shortPayload s 0 1)

theorem exec_trkRaw_selects {s : State} {t : Byte} {rest : List Byte} (h : s.pay = t :: rest) :
    exec .trkRaw s = exec (decodeRaw t) s := by
  have hrd : rdU8 s.pay 0 = .ok t.toNat := by
    rw [h]
    exact rdU8_ok (Nat.succ_pos _)
  have hsix : t.toNat = rawType ↔ t = 0x06 := BitVec.toNat_inj (y := 0x06)
  show execTrkRaw s = _
  simp only [execTrkRaw, hrd, decodeRaw_eq, hsix, BitVec.ofNat_toNat, BitVec.setWidth_eq]
  split_ifs <;> rfl

/-- Settles O29: the read of the discriminator leaves the payload, or gives the byte that selects. -/
theorem trkRawSelectsByDiscriminator : Obligations.TrkRawSelectsByDiscriminator :=
  ⟨fun _ => exec_trkRaw_short, fun _ t _ hpay => answers_of_selects (encode_decodeRaw t).2 (exec_trkRaw_selects hpay)⟩

/-! The navigation pair. -/

theorem mem_of_lookupCode {g : Byte} {t : Tag} {codes : List (Byte × Tag)} (h : lookupCode g codes = some t) :
    (g, t) ∈ codes := by
  induction codes with
  | nil => cases h
  | cons p codes ih =>
    rw [lookupCode] at h
    split_ifs at h with hp
    · obtain rfl := Option.some.inj h
      exact hp ▸ List.mem_cons_self
    · exact List.mem_cons_of_mem _ (ih h)

/-- What legal parameters say of the code map and of the place its code is read from (00_scope.md R7). -/
theorem Params.codes_of_legal {par : Params} (h : par.legal = true) :
    (par.gnssCodes.map Prod.snd).Nodup ∧ tagOf par 0 = some .gps ∧ par.navGnssOff ≤ 12 := by
  simp only [Params.legal, Bool.and_eq_true] at h
  obtain ⟨⟨⟨⟨⟨_, hinj⟩, hgps⟩, hoff⟩, _⟩, _⟩ := h
  exact ⟨of_decide_eq_true hinj, of_decide_eq_true hgps, of_decide_eq_true hoff⟩

/-- The map is injective, so code 0 is the only one of GPS (44_nav_subframe.md R301). -/
theorem tagOf_eq_gps_iff {par : Params} (h : par.legal = true) (g : Byte) : tagOf par g = some .gps ↔ g = 0 := by
  obtain ⟨hinj, hgps, _⟩ := Params.codes_of_legal h
  constructor
  · intro hg
    have hpair : (g, Tag.gps) = (0, Tag.gps) :=
      List.inj_on_of_nodup_map hinj (mem_of_lookupCode hg) (mem_of_lookupCode hgps) rfl
    exact congrArg Prod.fst hpair
  · rintro rfl
    exact hgps

section Nav

variable {s : State} (hlegal : s.par.legal = true)
include hlegal

theorem exec_trkNav_short (h : s.pay.length ≤ s.par.navGnssOff) :
    exec .trkNav s = .next (s.erred (shortErr s s.par.navGnssOff 1)) := by
  obtain ⟨_, _, hoff⟩ := Params.codes_of_legal hlegal
  have hu16 : (BitVec.ofNat 16 s.par.navGnssOff).toNat = s.par.navGnssOff :=
    (BitVec.toNat_ofNat ..).trans (Nat.mod_eq_of_lt (by omega))
  have hraise := raise_shortPayload s (BitVec.ofNat 16 s.par.navGnssOff) 1
  rw [hu16] at hraise
  show execTrkNav s = _
  rw [execTrkNav, rdU8_short h]
  exact congrArg Host.Outcome.next hraise

theorem exec_trkNav_selects (h : s.par.navGnssOff < s.pay.length) :
    exec .trkNav s = exec (decodeNav (s.pay.getD s.par.navGnssOff 0)) s := by
  show execTrkNav s = _
  simp only [execTrkNav, rdU8_ok h, decodeNav_eq, BitVec.ofNat_toNat, BitVec.setWidth_eq, tagOf_eq_gps_iff hlegal]
  split_ifs <;> rfl

end Nav

/-- Settles O30: the read of the constellation code leaves the payload, or gives the byte that selects; the dispatcher
asks its tag and the decoder its value, which agree where the parameters are legal. -/
theorem trkNavSelectsByConstellation : Obligations.TrkNavSelectsByConstellation := fun _ hlegal =>
  ⟨exec_trkNav_short hlegal, fun hin => answers_of_selects (encode_decodeNav _).2 (exec_trkNav_selects hlegal hin)⟩

/-! Every other pair. -/

/-- Settles O31: such a pair is what the row of `IGNORE` admits. -/
theorem otherPairsAreIgnored : Obligations.OtherPairsAreIgnored := by
  intro s c i hraw hnav
  have hwf : (Instr.ignore c i).wf = true := decide_eq_true ⟨hraw, hnav⟩
  exact ⟨decodeFrame_ignore hwf, rfl⟩

/-! What a decoder emits (42_dispatch.md R224, 60_exceptions.md R355, R356). -/

/-- From `s` to `t` one `ERR` is added to the pending events and the working state is dropped, or only `OBS` records
are added, or one `NAV`. -/
def State.EmitsAllOrNothing (s t : State) : Prop :=
  ∃ E, t.evq = s.evq ++ E ∧
    ((∃ e, E = [.err e] ∧ t.store = [] ∧ t.trValid = false) ∨ (∃ os : List Obs, E = os.map Event.obs) ∨
      ∃ n, E = [.nav n])

namespace State.EmitsAllOrNothing

theorem of_same {s t : State} (h : t.evq = s.evq) : s.EmitsAllOrNothing t :=
  ⟨[], by rw [h, List.append_nil], .inr (.inl ⟨[], rfl⟩)⟩

theorem raise (s : State) (e : Exc) : s.EmitsAllOrNothing (s.raise e) := ⟨_, rfl, .inl ⟨_, rfl, rfl, rfl⟩⟩

theorem emit_obs (s : State) (os : List Obs) : s.EmitsAllOrNothing (s.emit (os.map Event.obs)) :=
  ⟨_, rfl, .inr (.inl ⟨os, rfl⟩)⟩

theorem emit_nav (s : State) (n : NavRec) : s.EmitsAllOrNothing (s.emit [.nav n]) := ⟨_, rfl, .inr (.inr ⟨n, rfl⟩)⟩

end State.EmitsAllOrNothing

open State (EmitsAllOrNothing)

theorem rawDecode_emitsAllOrNothing (s : State) : s.EmitsAllOrNothing (rawDecode s) := by
  rcases rawDecode_cases s with ⟨e, he⟩ | hs | ⟨v, e, he⟩ | ⟨v, S, _, he⟩
  · exact he ▸ .raise s e
  · exact .of_same (congrArg State.evq hs)
  · exact he ▸ EmitsAllOrNothing.raise (s.setTr v) e
  · exact he ▸ EmitsAllOrNothing.emit_obs ((s.setTr v).setStore S) _

theorem readerResult_emitsAllOrNothing (s : State) (r : Except Exc Int) : s.EmitsAllOrNothing (readerResult s r) := by
  rcases readerResult_cases s r with ⟨v, hv⟩ | ⟨e, he⟩
  · exact hv ▸ .of_same rfl
  · exact he ▸ .raise s e

theorem execNavGps_emitsAllOrNothing (s : State) : Lands s.EmitsAllOrNothing (execNavGps s) := by
  rcases execNavGps_cases s with ⟨e, he⟩ | ⟨F, hF⟩
  · exact ⟨_, he, .raise s e⟩
  · rcases selectSubframe_cases (s.setFrm F) with ⟨x, hx⟩ | ⟨n, hn⟩
    · exact ⟨_, hF.trans hx, EmitsAllOrNothing.raise (s.setFrm F) _⟩
    · exact ⟨_, hF.trans hn, EmitsAllOrNothing.emit_nav (s.setFrm F) n⟩

theorem execTrkRaw_emitsAllOrNothing (s : State) : Lands s.EmitsAllOrNothing (execTrkRaw s) := by
  rcases execTrkRaw_cases s with ⟨e, he⟩ | he | he
  · exact ⟨_, he, .raise s e⟩
  · exact ⟨_, he, rawDecode_emitsAllOrNothing s⟩
  · exact ⟨_, he, .of_same rfl⟩

theorem execTrkNav_emitsAllOrNothing (s : State) : Lands s.EmitsAllOrNothing (execTrkNav s) := by
  rcases execTrkNav_cases s with ⟨e, he⟩ | he | he
  · exact ⟨_, he, .raise s e⟩
  · exact he ▸ execNavGps_emitsAllOrNothing s
  · exact ⟨_, he, .of_same rfl⟩

theorem exec_inner_emitsAllOrNothing {i : Instr} (hi : Inner i) (s : State) : Lands s.EmitsAllOrNothing (exec i s) := by
  obtain ⟨k, hk⟩ := hi
  cases i with
  | syncIdleHit => cases hk
  | syncIdleMiss b => cases hk
  | syncSeen1Hit => cases hk
  | syncSeen1Miss b => cases hk
  | syncAccAppend b => cases hk
  | trkRaw => exact execTrkRaw_emitsAllOrNothing s
  | trkNav => exact execTrkNav_emitsAllOrNothing s
  | ignore c i => exact ⟨_, rfl, .of_same rfl⟩
  | rawT6 => exact ⟨_, rfl, rawDecode_emitsAllOrNothing s⟩
  | rawOther t => exact ⟨_, rfl, .of_same rfl⟩
  | navGps => exact execNavGps_emitsAllOrNothing s
  | navOther g => exact ⟨_, rfl, .of_same rfl⟩
  | sf1 => exact ⟨_, rfl, .emit_nav s _⟩
  | sf23 lo => exact ⟨_, rfl, .emit_nav s _⟩
  | sf45 lo => exact ⟨_, rfl, .emit_nav s _⟩
  | sfBad x => exact ⟨_, rfl, .raise s _⟩
  | rdU8 off => exact ⟨_, rfl, readerResult_emitsAllOrNothing s _⟩
  | rdU16 off => exact ⟨_, rfl, readerResult_emitsAllOrNothing s _⟩
  | rdU32 off => exact ⟨_, rfl, readerResult_emitsAllOrNothing s _⟩
  | rdI32 off => exact ⟨_, rfl, readerResult_emitsAllOrNothing s _⟩
  | rdI64 off => exact ⟨_, rfl, readerResult_emitsAllOrNothing s _⟩
  | bfU a n => exact ⟨_, rfl, .of_same rfl⟩
  | bfS a n => exact ⟨_, rfl, .of_same rfl⟩

/-- Settles O32: an operation has one next state, and that one is as its decoder's ways to end say. -/
theorem decodeIsAllOrNothing : Obligations.DecodeIsAllOrNothing := by
  intro i s t hi ht
  obtain ⟨u, hu, hemits⟩ := exec_inner_emitsAllOrNothing hi s
  obtain rfl := next_unique ht hu
  exact hemits

end Sys2Proof.Machine
end

section
/-! PROOFS. The blocks of a raw measurement payload (43_raw_measurement.md R243, R244): where they start, and what the
reads of a block's fields give. -/

namespace Sys2Proof.Machine

/-! The block starts. -/

theorem mem_blockStarts {L o : Nat} : o ∈ blockStarts L ↔ ∃ k, o = 80 + 64 * k ∧ o < L := by
  simp only [blockStarts, numBlocks, rawHdr, rawBlk, List.mem_map, List.mem_range]
  constructor
  · rintro ⟨k, hk, rfl⟩
    exact ⟨k, rfl, by omega⟩
  · rintro ⟨k, rfl, hlt⟩
    exact ⟨k, by omega, rfl⟩

theorem blockStarts_pairwise_lt (L : Nat) : (blockStarts L).Pairwise (· < ·) :=
  List.pairwise_map.2 (List.pairwise_lt_range.imp fun h => by simp only [rawHdr, rawBlk]; omega)

/-- The number of blocks is the quotient rounded up. -/
theorem blockStarts_length_eq_ceil {L : Nat} (hL : 80 ≤ L) :
    ((blockStarts L).length : ℤ) = ⌈((L : ℚ) - 80) / 64⌉ := by
  have hlen : (blockStarts L).length = (L - 80 + 63) / 64 := by simp [blockStarts, numBlocks, rawHdr, rawBlk]
  obtain ⟨d, rfl⟩ := Nat.exists_eq_add_of_le hL
  rw [hlen, eq_comm, Int.ceil_eq_iff]
  generalize hn : (80 + d - 80 + 63) / 64 = n
  have hlow : 64 * n < d + 64 := by omega
  have hhigh : d ≤ 64 * n := by omega
  have hlow' : (64 * n : ℚ) < d + 64 := by exact_mod_cast hlow
  have hhigh' : (d : ℚ) ≤ 64 * n := by exact_mod_cast hhigh
  push_cast
  constructor <;> linarith

/-- Settles O39: the count of R243 as the model computes it is the quotient rounded up. -/
theorem blocksAreEveryStartBelowL : Obligations.BlocksAreEveryStartBelowL :=
  fun L hL => ⟨fun _ => mem_blockStarts, blockStarts_pairwise_lt L, blockStarts_length_eq_ceil hL⟩

/-- The decoder's block starts are those of the statements. -/
theorem blockStarts_eq_blockOffsets (P : List Byte) : blockStarts P.length = blockOffsets P := rfl

/-- The blocks before the last one, and the last one. -/
theorem blockOffsets_eq_append {P : List Byte} {k : Nat} (hlt : 80 + 64 * k < P.length)
    (hle : P.length ≤ 80 + 64 * k + 64) :
    blockOffsets P = (List.range k).map (fun j => 80 + 64 * j) ++ [80 + 64 * k] := by
  have hnum : (P.length - 80 + 63) / 64 = k + 1 := by omega
  rw [blockOffsets, hnum, List.range_succ, List.map_append, List.map_singleton]

/-! The fields of a block. -/

theorem ofNat_byteAt (P : List Byte) (k : Nat) : BitVec.ofNat 8 (byteAt P k) = P.getD k 0 := by simp [byteAt]

/-- The code a block's tag is looked up by. -/
theorem tagOf_byteAt (par : Params) (P : List Byte) (o : Nat) :
    tagOf par (BitVec.ofNat 8 (byteAt P (o + par.blk.gnss))) = tagAt par P o := by
  rw [ofNat_byteAt, tagAt]

theorem qualityAt_lt (par : Params) (P : List Byte) (o : Nat) : qualityAt par P o < 8 := Nat.mod_lt _ (by decide)

theorem rdU8_eq_byteAt {P : List Byte} {off : Nat} (h : off + 1 ≤ P.length) : rdU8 P off = .ok (byteAt P off) :=
  rdU8_ok h

theorem rdI64_eq_twos {P : List Byte} {off : Nat} (h : off + 8 ≤ P.length) :
    rdI64 P off = .ok (twos 64 (leSum P off 8)) := by
  rw [rdI64_eq_map, memRead_eq_leSum h, Except.map, sext_eq_twos (by decide) (leSum_lt h)]

theorem rdI32_eq_twos {P : List Byte} {off : Nat} (h : off + 4 ≤ P.length) :
    rdI32 P off = .ok (twos 32 (leSum P off 4)) := by
  rw [rdI32_eq_map, memRead_eq_leSum h, Except.map, sext_eq_twos (by decide) (leSum_lt h)]

section Block

variable {par : Params} {P : List Byte} {o : Nat}

theorem blkQi_ok (h : o + par.blk.qi + 1 ≤ P.length) : blkQi par P o = .ok (qualityAt par P o) := by
  rw [blkQi, rdU8_eq_byteAt h]
  rfl

theorem blkQi_short (h : P.length ≤ o + par.blk.qi) : blkQi par P o = .error (.shortPayload (o + par.blk.qi) 1) := by
  rw [blkQi, rdU8_short h]
  rfl

theorem blkGnss_ok (h : o + par.blk.gnss + 1 ≤ P.length) : blkGnss par P o = .ok (byteAt P (o + par.blk.gnss)) :=
  rdU8_eq_byteAt h

theorem blkGnss_short (h : P.length ≤ o + par.blk.gnss) :
    blkGnss par P o = .error (.shortPayload (o + par.blk.gnss) 1) :=
  rdU8_short h

theorem blkSv_ok (h : o + par.blk.sv + 1 ≤ P.length) : blkSv par P o = .ok (byteAt P (o + par.blk.sv)) :=
  rdU8_eq_byteAt h

theorem blkSv_short (h : P.length ≤ o + par.blk.sv) : blkSv par P o = .error (.shortPayload (o + par.blk.sv) 1) :=
  rdU8_short h

theorem blkRawTime_ok (h : o + par.blk.rawTime + 8 ≤ P.length) : blkRawTime par P o = .ok (rawTimeAt par P o) :=
  rdI64_eq_twos h

theorem blkFlag_ok (h : o + par.blk.flag + 1 ≤ P.length) : blkFlag par P o = .ok (byteAt P (o + par.blk.flag)) :=
  rdU8_eq_byteAt h

theorem blkRawAdr_ok (h : o + par.blk.rawAdr + 8 ≤ P.length) : blkRawAdr par P o = .ok (rawAdrAt par P o) :=
  rdI64_eq_twos h

theorem blkRawDop_ok (h : o + par.blk.rawDop + 4 ≤ P.length) : blkRawDop par P o = .ok (rawDopAt par P o) :=
  rdI32_eq_twos h

theorem blkRawSnr_ok (h : o + par.blk.rawSnr + 2 ≤ P.length) : blkRawSnr par P o = .ok (rawSnrAt par P o) :=
  memRead_eq_leSum h

end Block

/-- Two's complement covers the values of `N` bits. -/
theorem twos_bounds {N v : Nat} (hN : 0 < N) (hv : v < 2 ^ N) :
    -(2 : Int) ^ (N - 1) ≤ twos N v ∧ twos N v < 2 ^ (N - 1) := by
  have hpow : (2 : Int) ^ N = 2 * 2 ^ (N - 1) := by
    rw [← Int.pow_succ']
    congr
    omega
  rw [← sext_eq_twos hN hv]
  rcases Nat.lt_or_ge v (2 ^ (N - 1)) with hlow | hhigh
  · have : (v : Int) < 2 ^ (N - 1) := by exact_mod_cast hlow
    rw [sext_of_lt hlow hN]
    omega
  · have h1 : (2 : Int) ^ (N - 1) ≤ v := by exact_mod_cast hhigh
    have h2 : (v : Int) < 2 ^ N := by exact_mod_cast hv
    rw [sext_of_ge hhigh hv]
    omega

/-- An `N`-bit field holds the two's-complement reading of an `N`-bit value (00_scope.md R10, R13). -/
theorem toInt_ofInt_twos {N v : Nat} (hN : 0 < N) (hv : v < 2 ^ N) : (BitVec.ofInt N (twos N v)).toInt = twos N v := by
  obtain ⟨hlow, hhigh⟩ := twos_bounds hN hv
  exact BitVec.toInt_ofInt_eq_self hN hlow hhigh

end Sys2Proof.Machine
end

section
/-! PROOFS. The arithmetic under `EXACT` (00_scope.md R15, R16): every operation is the operation of the rationals. -/

namespace Sys2Proof.Machine

section Exact

variable (p q : Rat)

@[simp] theorem ofRat_exact : Scalar.ofRat .exact q = .exact q := rfl

@[simp] theorem ofInt_exact (z : Int) : Scalar.ofInt .exact z = .exact z := rfl

@[simp] theorem add_exact : Scalar.add .exact (.exact p) (.exact q) = .exact (p + q) := by
  by_cases h : p + q = 0 <;> simp [Scalar.add, Scalar.val, Val.add, ratVal, narrow, h]

@[simp] theorem sub_exact : Scalar.sub .exact (.exact p) (.exact q) = .exact (p - q) := by
  by_cases h : p + -q = 0 <;> simp [Scalar.sub, Scalar.val, Val.add, Val.neg, ratVal, narrow, h, sub_eq_add_neg]

@[simp] theorem mul_exact : Scalar.mul .exact (.exact p) (.exact q) = .exact (p * q) := rfl

theorem div_exact (hq : q ≠ 0) : Scalar.div .exact (.exact p) (.exact q) = .exact (p / q) := by
  simp [Scalar.div, Scalar.val, Val.div, narrow, hq]

@[simp] theorem neg_exact : Scalar.neg .exact (.exact q) = .exact (-q) := rfl

@[simp] theorem lt_exact : (Scalar.exact p).lt (.exact q) = decide (p < q) := rfl

@[simp] theorem round_exact (mode : RoundMode) :
    Scalar.round .exact mode (.exact q) = .exact (roundRat mode q) := rfl

end Exact

/-! The week (43_raw_measurement.md R253). -/

theorem weekWrap_eq_writtenWrap (m : Numerics) (x : Scalar) : weekWrap m x = writtenWrap m x := rfl

theorem writtenWrap_exact (x : Rat) : writtenWrap .exact (.exact x) = .exact (weekWrapRat x) := by
  simp only [writtenWrap, weekWrapRat, ofInt_exact, lt_exact, add_exact, sub_exact, decide_eq_true_eq]
  push_cast
  split_ifs <;> rfl

theorem weekWrapRat_of_abs_le {x : Rat} (h : |x| ≤ 302400) : weekWrapRat x = x := by
  obtain ⟨hlow, hhigh⟩ := abs_le.1 h
  rw [weekWrapRat, if_neg hlow.not_gt, if_neg hhigh.not_gt]

theorem abs_weekWrapRat_le {x : Rat} (h : |x| ≤ 907200) : |weekWrapRat x| ≤ 302400 := by
  obtain ⟨hlow, hhigh⟩ := abs_le.1 h
  unfold weekWrapRat
  split_ifs <;> exact abs_le.2 ⟨by linarith, by linarith⟩

/-- Settles O49: the decoder's wrap is the wrap over the rationals, whose two branches cannot both apply. -/
theorem weekWrapAdjustsOnce : Obligations.WeekWrapAdjustsOnce :=
  fun x => ⟨(weekWrap_eq_writtenWrap .exact (.exact x)).trans (writtenWrap_exact x), abs_weekWrapRat_le,
    weekWrapRat_of_abs_le⟩

/-! The integer nearest to a rational (00_scope.md R15). -/

section Round

variable {mode : RoundMode} {q : Rat}

theorem mkRat_one_two : mkRat 1 2 = 1 / 2 := by norm_num [Rat.mkRat_eq_div]

theorem roundRat_of_lt_half (h : q - q.floor < 1 / 2) : roundRat mode q = q.floor := by
  simp only [roundRat, mkRat_one_two, if_pos h]

theorem roundRat_of_half_lt (h : 1 / 2 < q - q.floor) : roundRat mode q = q.floor + 1 := by
  simp only [roundRat, mkRat_one_two, if_neg h.not_gt, if_pos h]

theorem roundRat_halfEven_of_half (h : q - q.floor = 1 / 2) :
    roundRat .halfEven q = if q.floor % 2 = 0 then q.floor else q.floor + 1 := by
  simp only [roundRat, mkRat_one_two, h, lt_irrefl, if_false]

theorem roundRat_halfAway_of_half (h : q - q.floor = 1 / 2) :
    roundRat .halfAway q = if 0 ≤ q then q.floor + 1 else q.floor := by
  simp only [roundRat, mkRat_one_two, h, lt_irrefl, if_false]

/-- A tie goes to one of the two neighbours. -/
theorem roundRat_of_half (h : q - q.floor = 1 / 2) : roundRat mode q = q.floor ∨ roundRat mode q = q.floor + 1 := by
  cases mode with
  | halfEven => rw [roundRat_halfEven_of_half h]; split_ifs <;> simp
  | halfAway => rw [roundRat_halfAway_of_half h]; split_ifs <;> simp

/-- The distance to the rounded number is the fraction, or what the fraction lacks of 1. -/
theorem abs_roundRat_sub_eq :
    (q - q.floor ≤ 1 / 2 ∧ |(roundRat mode q : Rat) - q| = q - q.floor) ∨
      (1 / 2 ≤ q - q.floor ∧ |(roundRat mode q : Rat) - q| = 1 - (q - q.floor)) := by
  have hfloor : |(q.floor : Rat) - q| = q - q.floor := by
    rw [abs_of_nonpos (by linarith [Rat.floor_le q])]
    ring
  have hceil : |((q.floor + 1 : Int) : Rat) - q| = 1 - (q - q.floor) := by
    push_cast
    rw [abs_of_pos (by linarith [Rat.lt_floor (x := q)])]
    ring
  rcases lt_trichotomy (q - q.floor) (1 / 2) with h | h | h
  · exact .inl ⟨h.le, by rw [roundRat_of_lt_half h, hfloor]⟩
  · rcases roundRat_of_half (mode := mode) h with he | he
    · exact .inl ⟨h.le, by rw [he, hfloor]⟩
    · exact .inr ⟨h.ge, by rw [he, hceil]⟩
  · exact .inr ⟨h.le, by rw [roundRat_of_half_lt h, hceil]⟩

theorem abs_roundRat_sub_le : |(roundRat mode q : Rat) - q| ≤ 1 / 2 := by
  rcases abs_roundRat_sub_eq (mode := mode) (q := q) with ⟨h, he⟩ | ⟨h, he⟩ <;> linarith

/-- Only a tie is rounded to a number a half away. -/
theorem half_of_abs_roundRat_sub_eq (h : |(roundRat mode q : Rat) - q| = 1 / 2) : q - q.floor = 1 / 2 := by
  rcases abs_roundRat_sub_eq (mode := mode) (q := q) with ⟨_, he⟩ | ⟨_, he⟩ <;> linarith

theorem roundRat_halfEven_even (h : |(roundRat .halfEven q : Rat) - q| = 1 / 2) : roundRat .halfEven q % 2 = 0 := by
  rw [roundRat_halfEven_of_half (half_of_abs_roundRat_sub_eq h)]
  split_ifs <;> omega

theorem roundRat_halfAway_farther (h : |(roundRat .halfAway q : Rat) - q| = 1 / 2) :
    |q| < |(roundRat .halfAway q : Rat)| := by
  have hhalf := half_of_abs_roundRat_sub_eq h
  rw [roundRat_halfAway_of_half hhalf]
  split_ifs with h0
  · push_cast
    rw [abs_of_nonneg h0, abs_of_nonneg (by linarith)]
    linarith
  · rw [abs_of_neg (not_le.1 h0), abs_of_neg (by linarith)]
    linarith

end Round

theorem nearestTick_roundRat (mode : RoundMode) (x : Rat) :
    NearestTick mode x (roundRat mode ((x + 8 / 100) * 10)) where
  near := abs_roundRat_sub_le
  tieEven := by
    rintro rfl h
    exact roundRat_halfEven_even h
  tieAway := by
    rintro rfl h
    exact roundRat_halfAway_farther h

end Sys2Proof.Machine
end

section
/-! PROOFS. The arithmetic under `BINARY64` where it is exact or bounded (00_scope.md R15, log 13): a number that a
binary64 word holds is kept, and rounding is monotone against such numbers. -/

namespace Sys2Proof.Machine

/-- Some finite binary64 word has this magnitude. -/
def Holds64 (r : Rat) : Prop := ∃ x < 2047 * 2 ^ 52, r = magVal x

/-- A significand of 53 bits in any binade: shifted left until its top bit stands, or the binade is that of the
subnormals. -/
theorem holds64_mul_ulp {E m : Nat} (hE : E ≤ 2045) (hm : m < 2 ^ 53) : Holds64 (m * ulp E) := by
  induction E generalizing m with
  | zero => exact ⟨m, by omega, by simpa using (magVal_of_grid (E := 0) (.inl rfl) hm.le).symm⟩
  | succ E ih =>
    rcases Nat.lt_or_ge m (2 ^ 52) with hlow | hhigh
    · have hshift : (m : Rat) * ulp (E + 1) = (2 * m : Nat) * ulp E := by
        rw [ulp_succ]
        push_cast
        ring
      exact hshift ▸ ih (by omega) (by omega)
    · exact ⟨(E + 1) * 2 ^ 52 + m, by omega, (magVal_of_grid (.inr hhigh) hm.le).symm⟩

/-- A whole number of 53 bits over a power of two. -/
theorem holds64_div_two_pow {n k : Nat} (hn : n < 2 ^ 53) (hk : k ≤ 1074) : Holds64 (n / 2 ^ k) := by
  have hulp : (n : Rat) / 2 ^ k = n * ulp (1074 - k) := by
    rw [ulp, div_eq_mul_inv, ← zpow_natCast, ← zpow_neg]
    congr
    omega
  exact hulp ▸ holds64_mul_ulp (by omega) hn

/-- The same for an integer, its sign aside. -/
theorem holds64_abs_intCast_div {z : Int} {k : Nat} (hz : |z| < 2 ^ 53) (hk : k ≤ 1074) :
    Holds64 |(z : Rat) / 2 ^ k| := by
  have habs : |(z : Rat) / 2 ^ k| = z.natAbs / 2 ^ k := by
    rw [abs_div, abs_of_pos (by positivity : (0 : Rat) < 2 ^ k), Nat.cast_natAbs, Int.cast_abs]
  rw [Int.abs_eq_natAbs] at hz
  exact habs ▸ holds64_div_two_pow (by omega) hk

theorem holds64_abs_intCast {z : Int} (hz : |z| < 2 ^ 53) : Holds64 |(z : Rat)| := by
  simpa using holds64_abs_intCast_div hz (Nat.zero_le 1074)

theorem holds64_two_pow {k : Nat} (hk : k ≤ 971) : Holds64 (2 ^ k) := by
  have hulp : (2 : Rat) ^ k = (1 : Nat) * ulp (1074 + k) := by
    rw [ulp, ← zpow_natCast, Nat.cast_one, one_mul]
    congr
    omega
  exact hulp ▸ holds64_mul_ulp (by omega) (by decide)

/-! One rounding. -/

/-- A result whose rounded magnitude is finite keeps its sign. -/
theorem val_narrow_binary64 {q : Rat} (neg : Bool) (h : roundMag q < 2047 * 2 ^ 52) :
    (narrow .binary64 (.fin neg q)).val = .fin neg (withSign neg (magVal (roundMag q))) := by
  show wordVal (roundWord neg q) = _
  rw [wordVal_eq_fin, roundWord_mag, roundWord_sign]
  exact ⟨h, rfl, rfl⟩

/-- A number that binary64 holds is delivered as it is under either `NUMERICS`. -/
theorem val_narrow_of_holds (m : Numerics) {q : Rat} (h : Holds64 |q|) : (narrow m (ratVal q)).val = ratVal q := by
  cases m with
  | exact => rfl
  | binary64 =>
    obtain ⟨x, hx, hq⟩ := h
    have hmag : roundMag q = x := roundMag_of_abs_eq hx hq
    rw [ratVal, val_narrow_binary64 _ (hmag ▸ hx), hmag, ← hq, withSign_decide_neg_abs]

theorem val_ofRat_of_holds (m : Numerics) {q : Rat} (h : Holds64 |q|) : (Scalar.ofRat m q).val = ratVal q :=
  val_narrow_of_holds m h

theorem val_ofInt_of_holds (m : Numerics) {z : Int} (h : |z| < 2 ^ 53) : (Scalar.ofInt m z).val = ratVal z :=
  val_narrow_of_holds m (holds64_abs_intCast h)

theorem ratVal_mul {q : Rat} (p : Rat) (hq : 0 < q) : (ratVal p).mul (ratVal q) = ratVal (p * q) := by
  simp [ratVal, Val.mul, mul_neg_iff, hq, hq.not_gt]

theorem ratVal_div {q : Rat} (p : Rat) (hq : 0 < q) : (ratVal p).div (ratVal q) = ratVal (p / q) := by
  simp [ratVal, Val.div, div_neg_iff, hq, hq.ne', hq.not_gt]

/-- A sum of numbers one of which is not negative: its zero is the positive one. -/
theorem ratVal_add {q : Rat} (p : Rat) (hq : 0 ≤ q) : (ratVal p).add (ratVal q) = ratVal (p + q) := by
  by_cases h : p + q = 0 <;> simp [ratVal, Val.add, h, hq.not_gt]

section Operations

variable {m : Numerics} {a b : Scalar} {p q : Rat} (ha : a.val = ratVal p) (hb : b.val = ratVal q)
include ha hb

theorem val_mul_of_holds (hq : 0 < q) (h : Holds64 |p * q|) : (Scalar.mul m a b).val = ratVal (p * q) := by
  rw [Scalar.mul, ha, hb, ratVal_mul p hq, val_narrow_of_holds m h]

theorem val_div_of_holds (hq : 0 < q) (h : Holds64 |p / q|) : (Scalar.div m a b).val = ratVal (p / q) := by
  rw [Scalar.div, ha, hb, ratVal_div p hq, val_narrow_of_holds m h]

end Operations

/-! The scale factors of the raw fields. -/

theorem pow2_neg (k : Nat) : pow2 (-k) = 1 / 2 ^ k := by
  rw [pow2_eq_zpow, zpow_neg, zpow_natCast, one_div]

theorem val_ofRat_pow2_neg (m : Numerics) {k : Nat} (hk : k ≤ 1074) :
    (Scalar.ofRat m (pow2 (-k))).val = ratVal (1 / 2 ^ k) := by
  rw [pow2_neg]
  exact val_ofRat_of_holds m (by simpa using holds64_abs_intCast_div (z := 1) (by norm_num) hk)

/-- An integer of 53 bits times a negative power of two is exact. -/
theorem val_mul_pow2_neg (m : Numerics) {z : Int} {k : Nat} (hz : |z| < 2 ^ 53) (hk : k ≤ 1074) :
    (Scalar.mul m (Scalar.ofInt m z) (Scalar.ofRat m (pow2 (-k)))).val = ratVal (z / 2 ^ k) := by
  have hprod : (z : Rat) * (1 / 2 ^ k) = z / 2 ^ k := by rw [mul_one_div]
  rw [← hprod]
  exact val_mul_of_holds (val_ofInt_of_holds m hz) (val_ofRat_pow2_neg m hk) (by positivity)
    (hprod ▸ holds64_abs_intCast_div hz hk)

/-! The Doppler value and the signal strength (43_raw_measurement.md R258, R259). -/

theorem val_dopplerOf (m : Numerics) {rd : Int} (h : |rd| < 2 ^ 53) : (dopplerOf m rd).val = ratVal (rd / 4096) := by
  have hquot : (rd : Rat) / 2 ^ 10 / (4 : Int) = rd / 2 ^ 12 := by
    push_cast
    ring
  have hmul := val_mul_pow2_neg m (k := 10) h (by decide)
  have hdiv := val_div_of_holds (m := m) hmul (val_ofInt_of_holds m (z := 4) (by norm_num)) (by norm_num)
    (by rw [hquot]; exact holds64_abs_intCast_div h (by decide))
  rw [hquot] at hdiv
  exact hdiv.trans (by norm_num)

theorem val_snrOf (m : Numerics) {rs : Nat} (h : rs < 2 ^ 53) : (snrOf m rs).val = ratVal (rs / 256) := by
  have hrs : |(rs : Int)| < 2 ^ 53 := by
    rw [Int.abs_eq_natAbs]
    omega
  have hquot : ((rs : Int) : Rat) / (256 : Int) = (rs : Int) / 2 ^ 8 := by norm_num
  have hdiv := val_div_of_holds (m := m) (val_ofInt_of_holds m hrs) (val_ofInt_of_holds m (z := 256) (by norm_num))
    (by norm_num) (by rw [hquot]; exact holds64_abs_intCast_div hrs (by decide))
  rw [hquot] at hdiv
  exact hdiv.trans (by norm_num)

/-- Settles O50: every intermediate result has at most 53 bits. -/
theorem dopplerAndSnrAreExact : Obligations.DopplerAndSnrAreExact :=
  ⟨fun m rd hlow hhigh => val_dopplerOf m (abs_lt.2 ⟨by omega, by omega⟩), fun m rs h => val_snrOf m (by omega)⟩

/-! A rounding that is not exact. -/

/-- A finite value whose magnitude lies between two bounds. -/
def Val.Between (lo hi : Rat) (v : Val) : Prop := ∃ neg q, v = .fin neg q ∧ lo ≤ |q| ∧ |q| ≤ hi

theorem Val.Between.ne_zero {lo hi : Rat} {v : Val} (h : v.Between lo hi) (hlo : 0 < lo) (neg : Bool) :
    v ≠ .fin neg 0 := by
  rintro rfl
  obtain ⟨_, q, hv, hle, _⟩ := h
  obtain ⟨_, rfl⟩ := Val.fin.inj hv
  rw [abs_zero] at hle
  linarith

/-- Powers of two far below the largest finite word. -/
theorem two_pow_lt_overflow {k : Nat} (hk : k ≤ 971) : (2 : Rat) ^ k < 2 ^ 1024 - 2 ^ 970 := by
  have hmono : (2 : Rat) ^ k ≤ 2 ^ 971 := pow_le_pow_right₀ one_le_two hk
  have hsucc : (2 : Rat) ^ 971 = 2 * 2 ^ 970 := pow_succ' 2 970
  have htop : (2 : Rat) ^ 1024 = 2 ^ 54 * 2 ^ 970 := by rw [← pow_add]
  have hpos : (0 : Rat) < 2 ^ 970 := by positivity
  rw [hsucc] at hmono
  rw [htop]
  clear hsucc htop
  generalize (2 : Rat) ^ 970 = u at *
  linarith

/-- Rounding keeps a magnitude between bounds that binary64 holds. -/
theorem narrow_between {lo q : Rat} {k : Nat} (neg : Bool) (hlo : Holds64 lo) (hk : k ≤ 971) (hq : q ≠ 0)
    (hloq : lo ≤ |q|) (hqhi : |q| ≤ 2 ^ k) : (narrow .binary64 (.fin neg q)).val.Between lo (2 ^ k) := by
  obtain ⟨hmag, hnear⟩ := roundMag_nearest hq (hqhi.trans_lt (two_pow_lt_overflow hk))
  refine ⟨neg, _, val_narrow_binary64 neg hmag, ?_⟩
  rw [abs_withSign, abs_of_nonneg (magVal_nonneg _)]
  constructor
  · obtain ⟨x, _, rfl⟩ := hlo
    have h := (hnear x).1
    rw [abs_of_nonpos (sub_nonpos.2 hloq)] at h
    linarith [(abs_le.1 h).1]
  · obtain ⟨x, _, hx⟩ := holds64_two_pow hk
    rw [hx] at hqhi ⊢
    have h := (hnear x).1
    rw [abs_of_nonneg (sub_nonneg.2 hqhi)] at h
    linarith [(abs_le.1 h).2]

/-! The carrier phase (43_raw_measurement.md R256, R260). -/

/-- What the half-cycle flag adds to the phase. -/
def halfCycle (h : Bool) : Rat := if h then 1 / 2 else 0

theorem halfCycle_nonneg (h : Bool) : 0 ≤ halfCycle h := by cases h <;> norm_num [halfCycle]

theorem abs_halfCycle_le (h : Bool) : |halfCycle h| ≤ 1 / 2 := by cases h <;> norm_num [halfCycle]

theorem val_halfCycle (m : Numerics) (h : Bool) :
    (if h then Scalar.ofRat m (mkRat 1 2) else Scalar.ofInt m 0).val = ratVal (halfCycle h) := by
  cases h with
  | false => simpa [halfCycle] using val_ofInt_of_holds m (z := 0) (by norm_num)
  | true =>
    have hheld : Holds64 |(1 / 2 : Rat)| := by
      simpa using holds64_abs_intCast_div (z := 1) (k := 1) (by norm_num) (by norm_num)
    simpa [halfCycle, mkRat_one_two] using val_ofRat_of_holds m hheld

/-- The phase in whole units of `2^-32`. -/
theorem phase_eq_div (ra : Int) (h : Bool) :
    (ra : Rat) / 2 ^ 32 + halfCycle h = (ra + if h then 2 ^ 31 else 0 : Int) / 2 ^ 32 := by
  cases h with
  | false => simp [halfCycle]
  | true =>
    simp only [halfCycle, if_true]
    push_cast
    ring

/-- The phase is zero for these raw phases only. -/
theorem phase_eq_zero_iff (ra : Int) (h : Bool) :
    (ra : Rat) / 2 ^ 32 + halfCycle h = 0 ↔ ra = if h then -2 ^ 31 else 0 := by
  rw [phase_eq_div, div_eq_zero_iff, or_iff_left (by norm_num), Int.cast_eq_zero]
  split_ifs <;> omega

/-- Any other phase is at least one unit away from zero. -/
theorem le_abs_phase {ra : Int} {h : Bool} (hne : (ra : Rat) / 2 ^ 32 + halfCycle h ≠ 0) :
    1 / 2 ^ 32 ≤ |(ra : Rat) / 2 ^ 32 + halfCycle h| := by
  rw [phase_eq_div] at hne ⊢
  have hunits : 1 ≤ |ra + if h then 2 ^ 31 else 0| :=
    Int.one_le_abs fun hzero => hne (by rw [hzero, Int.cast_zero, zero_div])
  have hunits' : (1 : Rat) ≤ |((ra + if h then 2 ^ 31 else 0 : Int) : Rat)| := by exact_mod_cast hunits
  rw [abs_div, abs_of_pos (by positivity : (0 : Rat) < 2 ^ 32)]
  gcongr

/-- A phase of 53 bits is scaled exactly, and the sum is rounded once. -/
theorem adrOf_of_small (m : Numerics) {ra : Int} (h : Bool) (hra : |ra| < 2 ^ 53) :
    adrOf m ra h = narrow m (ratVal (ra / 2 ^ 32 + halfCycle h)) := by
  have hmul := val_mul_pow2_neg m (k := 32) hra (by decide)
  rw [adrOf, Scalar.add, val_halfCycle]
  exact congrArg (narrow m) ((congrArg (Val.add · _) hmul).trans (ratVal_add _ (halfCycle_nonneg h)))

theorem ofInt_between {z : Int} {i k : Nat} (hi : i ≤ 971) (hk : k ≤ 971) (hlo : 2 ^ i ≤ |z|) (hhi : |z| ≤ 2 ^ k) :
    (Scalar.ofInt .binary64 z).val.Between (2 ^ i) (2 ^ k) := by
  have hlo' : (2 : Rat) ^ i ≤ |(z : Rat)| := by exact_mod_cast hlo
  have hpos : (0 : Rat) < 2 ^ i := by positivity
  exact narrow_between _ (holds64_two_pow hi) hk (abs_pos.1 (hpos.trans_le hlo')) hlo' (by exact_mod_cast hhi)

/-- Scaling by a negative power of two scales the bounds. -/
theorem mul_pow2_neg_between {a : Scalar} {i k j : Nat} (hi : i ≤ 971) (hk : k ≤ 971) (hj : j ≤ 1074)
    (h : a.val.Between (2 ^ (i + j)) (2 ^ (k + j))) :
    (Scalar.mul .binary64 a (Scalar.ofRat .binary64 (pow2 (-j)))).val.Between (2 ^ i) (2 ^ k) := by
  obtain ⟨neg, q, hq, hlo, hhi⟩ := h
  have hj' : (0 : Rat) < 2 ^ j := by positivity
  have habs : |q * (1 / 2 ^ j)| = |q| / 2 ^ j := by rw [mul_one_div, abs_div, abs_of_pos hj']
  have hlo' : 2 ^ i ≤ |q * (1 / 2 ^ j)| := by rwa [habs, le_div_iff₀ hj', ← pow_add]
  have hhi' : |q * (1 / 2 ^ j)| ≤ 2 ^ k := by rwa [habs, div_le_iff₀ hj', ← pow_add]
  have hpos : (0 : Rat) < 2 ^ i := by positivity
  rw [Scalar.mul, hq, val_ofRat_pow2_neg .binary64 hj]
  exact narrow_between _ (holds64_two_pow hi) hk (abs_pos.1 (hpos.trans_le hlo')) hlo' hhi'

/-- A greater phase is scaled inexactly, but the result stays away from zero. -/
theorem adrOf_binary64_between {ra : Int} (h : Bool) (hlo : 2 ^ 53 ≤ |ra|) (hhi : |ra| ≤ 2 ^ 63) :
    (adrOf .binary64 ra h).val.Between (2 ^ 0) (2 ^ 32) := by
  have hraw := ofInt_between (i := 53) (k := 63) (by decide) (by decide) hlo hhi
  obtain ⟨neg, y, hy, hloy, hhiy⟩ :
      (Scalar.mul .binary64 (Scalar.ofInt .binary64 ra) (Scalar.ofRat .binary64 (pow2 (-32)))).val.Between
        (2 ^ 21) (2 ^ 31) :=
    mul_pow2_neg_between (j := 32) (by decide) (by decide) (by decide) hraw
  have hcycle := abs_halfCycle_le h
  have hhi' : |y + halfCycle h| ≤ 2 ^ 32 := by linarith [abs_add_le y (halfCycle h)]
  have hlo' : 2 ^ 0 ≤ |y + halfCycle h| := by
    have hback := abs_sub (y + halfCycle h) (halfCycle h)
    rw [add_sub_cancel_right] at hback
    linarith
  have hne : y + halfCycle h ≠ 0 := abs_pos.1 (by linarith)
  rw [adrOf, Scalar.add, val_halfCycle, hy]
  simp only [ratVal, Val.add, hne, if_false]
  exact narrow_between _ (holds64_two_pow (by decide)) (by decide) hne hlo' hhi'

/-- The phase of a raw phase that is not one of the two is not zero. -/
theorem adrOf_binary64_ne_zero {ra : Int} {h : Bool} (hra : |ra| ≤ 2 ^ 63) (hne : ra ≠ if h then -2 ^ 31 else 0)
    (neg : Bool) : (adrOf .binary64 ra h).val ≠ .fin neg 0 := by
  rcases lt_or_ge |ra| (2 ^ 53) with hsmall | hlarge
  · have hphase := mt (phase_eq_zero_iff ra h).1 hne
    have hsmall' : |(ra : Rat)| < 2 ^ 53 := by exact_mod_cast hsmall
    have hhi : |(ra : Rat) / 2 ^ 32 + halfCycle h| ≤ 2 ^ 32 := by
      have hscaled : |(ra : Rat) / 2 ^ 32| ≤ 2 ^ 21 := by
        rw [abs_div, abs_of_pos (by positivity : (0 : Rat) < 2 ^ 32), div_le_iff₀ (by positivity)]
        linarith
      linarith [abs_halfCycle_le h, abs_add_le ((ra : Rat) / 2 ^ 32) (halfCycle h)]
    rw [adrOf_of_small .binary64 h hsmall]
    exact (narrow_between _ (by simpa using holds64_div_two_pow (n := 1) (k := 32) (by norm_num) (by norm_num))
      (by norm_num) hphase (le_abs_phase hphase) hhi).ne_zero (by positivity) neg
  · exact (adrOf_binary64_between h hlarge hra).ne_zero (by norm_num) neg

/-- The phase of the two raw phases is zero. -/
theorem adrOf_eq_zero (m : Numerics) (h : Bool) : adrOf m (if h then -2 ^ 31 else 0) h = narrow m (ratVal 0) := by
  rw [adrOf_of_small m h (by split_ifs <;> norm_num), (phase_eq_zero_iff _ h).2 rfl]

theorem val_narrow_zero (m : Numerics) : (narrow m (ratVal 0)).val = ratVal 0 :=
  val_narrow_of_holds m (by simpa using holds64_abs_intCast (z := 0) (by norm_num))

/-- The negation of that zero is the word of the sign alone (93_implementation_defined.md I16). -/
theorem neg_zero_binary64 : Scalar.neg .binary64 (narrow .binary64 (ratVal 0)) = .bits 0x8000000000000000 := by
  have hmag : roundMag 0 = 0 := rfl
  have hword : roundWord true 0 = 0x8000000000000000 := BitVec.eq_of_toNat_eq (by rw [roundWord_toNat, hmag]; rfl)
  rw [Scalar.neg, val_narrow_zero, ← hword]
  rfl

theorem neg_zero_exact : Scalar.neg .exact (narrow .exact (ratVal 0)) = .exact 0 := rfl

theorem adrOf_exact (ra : Int) (h : Bool) : adrOf .exact ra h = .exact (ra / 2 ^ 32 + halfCycle h) := by
  have hscale : pow2 (-32) = 1 / 2 ^ 32 := pow2_neg 32
  rw [adrOf, hscale]
  cases h <;> simp [halfCycle, mkRat_one_two, div_eq_mul_inv]

/-- The value of a phase under either `NUMERICS` is zero for the two raw phases only. -/
theorem val_adrOf_eq_zero_iff (m : Numerics) {ra : Int} (h : Bool) (hra : |ra| ≤ 2 ^ 63) :
    (∃ neg, (adrOf m ra h).val = .fin neg 0) ↔ ra = if h then -2 ^ 31 else 0 := by
  constructor
  · rintro ⟨neg, hval⟩
    by_contra hne
    cases m with
    | binary64 => exact adrOf_binary64_ne_zero hra hne neg hval
    | exact =>
      rw [adrOf_exact] at hval
      exact hne ((phase_eq_zero_iff ra h).1 (Val.fin.inj hval).2)
  · rintro rfl
    rw [adrOf_eq_zero]
    exact ⟨_, val_narrow_zero m⟩

/-- Settles O51: the phases that are zero are the positive zero, which the negation turns. -/
theorem zeroPhaseIsNegativeZero : Obligations.ZeroPhaseIsNegativeZero := by
  refine ⟨fun ra h hlow hhigh => ?_, neg_zero_binary64, neg_zero_exact⟩
  have hra : |ra| ≤ 2 ^ 63 := abs_le.2 ⟨by omega, by omega⟩
  have h64 := val_adrOf_eq_zero_iff .binary64 h hra
  have hexact := val_adrOf_eq_zero_iff .exact h hra
  refine ⟨h64, fun hzero => ?_, hexact, fun hzero => ?_⟩
  · rw [h64.1 hzero, adrOf_eq_zero, neg_zero_binary64]
  · rw [hexact.1 hzero, adrOf_eq_zero, neg_zero_exact]

end Sys2Proof.Machine
end

section
/-! PROOFS. The two passes over the blocks of a raw measurement payload (43_raw_measurement.md R245 to R261): what each
gives for a block whose bytes are in the payload, and so for a list of such blocks. -/

namespace Sys2Proof.Machine

/-! The derived values as written operations. -/

theorem blockTime_eq_writtenTime (m : Numerics) (r : Int) : blockTime m r = writtenTime m r := by
  have hscale : pow2 (-32) = 1 / 2 ^ 32 := pow2_neg 32
  rw [blockTime, hscale, writtenTime]

theorem adrOf_eq_writtenPhase (m : Numerics) (ra : Int) (h : Bool) : adrOf m ra h = writtenPhase m ra h := by
  have hscale : pow2 (-32) = 1 / 2 ^ 32 := pow2_neg 32
  rw [adrOf, hscale, mkRat_one_two, writtenPhase]

theorem dopplerOf_eq_writtenDoppler (m : Numerics) (rd : Int) : dopplerOf m rd = writtenDoppler m rd := by
  have hscale : pow2 (-10) = 1 / 2 ^ 10 := pow2_neg 10
  rw [dopplerOf, hscale, writtenDoppler]

theorem snap_eq_writtenSnap (par : Params) (t : Scalar) : snap par t = writtenSnap par.numerics par.roundMode t := by
  have htick : tick = 1 / 10 := by norm_num [tick, Rat.mkRat_eq_div]
  have hbias : tickBias = 8 / 100 := Rat.mkRat_eq_div ..
  rw [snap, htick, hbias, writtenSnap]

/-- Above the filter the guard of R254 has no effect. -/
theorem blockTau_of_quality {m : Numerics} {tr ts : Scalar} {q : Nat} (h : 4 ≤ q) :
    blockTau m tr ts q = writtenWrap m (Scalar.sub m tr ts) :=
  (if_neg (Nat.not_lt.2 h)).trans (weekWrap_eq_writtenWrap m _)

/-! Lists of blocks. -/

/-- A pass that reads every block through gives the values of the blocks it keeps, in order. -/
theorem collect_eq_filter_map {α : Type} {f : Nat → Except Exc (Option α)} {keep : Nat → Bool} {g : Nat → α}
    {os : List Nat} (h : ∀ o ∈ os, f o = .ok (if keep o then some (g o) else none)) :
    collect f os = .ok ((os.filter keep).map g) := by
  induction os with
  | nil => rfl
  | cons o os ih =>
    obtain ⟨ho, hos⟩ := List.forall_mem_cons.1 h
    cases hk : keep o <;> simp [collect, ho, hk, ih hos]

/-- A pass that reads every block but the last one through, and not the last one, ends with its exception. -/
theorem collect_append_error {α : Type} {f : Nat → Except Exc (Option α)} {os : List Nat} {o : Nat} {e : Exc}
    (hos : ∀ x ∈ os, ∃ y, f x = .ok y) (ho : f o = .error e) : collect f (os ++ [o]) = .error e :=
  collect_error.2 ⟨os, o, [], rfl, hos, ho⟩

/-- Every value a pass gives is that of some block. -/
theorem exists_of_mem_collect {α : Type} {f : Nat → Except Exc (Option α)} {os : List Nat} {xs : List α} {x : α}
    (h : collect f os = .ok xs) (hx : x ∈ xs) : ∃ o ∈ os, f o = .ok (some x) := by
  obtain ⟨ys, hys, rfl⟩ := collect_ok.1 h
  have hmem : some x ∈ ys := List.reduceOption_mem_iff.1 hx
  clear h hx
  induction hys with
  | nil => cases hmem
  | cons ho _ ih =>
    rcases List.mem_cons.1 hmem with rfl | htail
    · exact ⟨_, List.mem_cons_self, ho⟩
    · obtain ⟨o, hos, hfo⟩ := ih htail
      exact ⟨o, List.mem_cons_of_mem _ hos, hfo⟩

section Block

variable {par : Params} {P : List Byte} {o : Nat}

/-! Pass 1. -/

theorem pass1Block_low (hqi : o + par.blk.qi + 1 ≤ P.length) (hq : qualityAt par P o < 4) :
    pass1Block par P o = .ok none := by
  simp only [pass1Block, blkQi_ok hqi, qiMin, hq, if_true]

theorem pass1Block_ok (h : pass1Readable par P o) :
    pass1Block par P o = .ok (if gpsCandidate par P o then some (timeAt par P o) else none) := by
  obtain ⟨hqi, hrest⟩ := h
  rcases Nat.lt_or_ge (qualityAt par P o) 4 with hq | hq
  · simp [pass1Block_low hqi hq, gpsCandidate, Nat.not_le.2 hq]
  · obtain ⟨hgnss, htime⟩ := hrest hq
    simp only [pass1Block, blkQi_ok hqi, qiMin, if_neg (Nat.not_lt.2 hq), blkGnss_ok hgnss, blkRawTime_ok htime,
      tagOf_byteAt, gpsCandidate, hq, true_and, decide_eq_true_eq, blockTime_eq_writtenTime]
    split_ifs with hgps hglo
    · simp [hgps] at hglo
    · rfl
    · rfl

theorem pass1_ok {B : List Nat} (h : ∀ o ∈ B, pass1Readable par P o) :
    pass1 par P B = .ok ((B.filter (gpsCandidate par P)).map (timeAt par P)) :=
  collect_eq_filter_map fun o ho => pass1Block_ok (h o ho)

/-! Pass 2. -/

/-- The record of the block at `o`, each field as the spec's formula gives it (43_raw_measurement.md R250 to R261). -/
def recordAt (par : Params) (P : List Byte) (tr : Scalar) (o : Nat) : Obs :=
  let m := par.numerics
  let tau := writtenWrap m (Scalar.sub m tr (timeAt par P o))
  { gnss := P.getD (o + par.blk.gnss) 0
    prn := BitVec.ofNat 9 (byteAt P (o + par.blk.sv) + if tagAt par P o = some .qzss then 192 else 0)
    qi := BitVec.ofNat 3 (qualityAt par P o)
    rawTime := BitVec.ofInt 64 (rawTimeAt par P o)
    rawAdr := BitVec.ofInt 64 (if qualityAt par P o < 6 then 0 else rawAdrAt par P o)
    rawDop := BitVec.ofInt 32 (rawDopAt par P o)
    rawSnr := BitVec.ofNat 16 (rawSnrAt par P o)
    half := if qualityAt par P o < 6 then false else halfAt par P o
    snr := Scalar.div m (Scalar.ofInt m (rawSnrAt par P o)) (Scalar.ofInt m 256)
    tau := tau
    tr := tr
    p := rangeOf par tau
    d := writtenDoppler m (rawDopAt par P o)
    lCp := Scalar.neg m (if qualityAt par P o < 6 then Scalar.ofInt m 0
      else writtenPhase m (rawAdrAt par P o) (halfAt par P o))
    last := false }

theorem blockPhase_ok
    (h : 6 ≤ qualityAt par P o → o + par.blk.flag + 1 ≤ P.length ∧ o + par.blk.rawAdr + 8 ≤ P.length) :
    blockPhase par P o (qualityAt par P o) =
      .ok (if qualityAt par P o < 6 then 0 else rawAdrAt par P o,
        if qualityAt par P o < 6 then false else halfAt par P o,
        if qualityAt par P o < 6 then Scalar.ofInt par.numerics 0
          else writtenPhase par.numerics (rawAdrAt par P o) (halfAt par P o)) := by
  rcases Nat.lt_or_ge (qualityAt par P o) 6 with hq | hq
  · simp [blockPhase, qiAdr, hq]
  · obtain ⟨hflag, hadr⟩ := h hq
    simp only [blockPhase, qiAdr, if_neg (Nat.not_lt.2 hq), blkFlag_ok hflag, blkRawAdr_ok hadr,
      adrOf_eq_writtenPhase]
    rfl

theorem prnOf_eq (t : Tag) (sv : Nat) :
    prnOf t sv = BitVec.ofNat 9 (sv + if some t = some .qzss then 192 else 0) := by
  by_cases h : t = .qzss <;> simp [prnOf, qzssPrnOffset, h]

theorem blockRecord_ok {t : Tag} (tr : Scalar) (h1 : pass1Readable par P o) (h2 : pass2Readable par P o)
    (hq : 4 ≤ qualityAt par P o) (ht : tagAt par P o = some t) :
    blockRecord par P tr o (qualityAt par P o) (byteAt P (o + par.blk.gnss)) (byteAt P (o + par.blk.sv)) t =
      .ok (recordAt par P tr o) := by
  obtain ⟨_, htime⟩ := h1.2 hq
  obtain ⟨hdop, hsnr, hphase⟩ := (h2 hq).2 (by simp [ht])
  simp only [blockRecord, blkRawTime_ok htime, blockPhase_ok hphase, blkRawDop_ok hdop, blkRawSnr_ok hsnr,
    blockTau_of_quality hq, blockTime_eq_writtenTime, dopplerOf_eq_writtenDoppler, ofNat_byteAt, prnOf_eq, ← ht]
  rfl

theorem pass2Block_ok (tr : Scalar) (h1 : pass1Readable par P o) (h2 : pass2Readable par P o) :
    pass2Block par P tr o = .ok (if givesRecord par P o then some (recordAt par P tr o) else none) := by
  obtain ⟨hqi, hrest⟩ := h1
  have hq7 : ¬qiMax < qualityAt par P o := Nat.not_lt.2 (Nat.le_of_lt_succ (qualityAt_lt par P o))
  rcases Nat.lt_or_ge (qualityAt par P o) 4 with hq | hq
  · simp [pass2Block, blkQi_ok hqi, qiMin, hq, givesRecord, Nat.not_le.2 hq]
  · obtain ⟨hgnss, _⟩ := hrest hq
    obtain ⟨hsv, _⟩ := h2 hq
    simp only [pass2Block, blkQi_ok hqi, qiMin, Nat.not_lt.2 hq, hq7, or_self, if_false, blkGnss_ok hgnss, blkSv_ok hsv,
      tagOf_byteAt, givesRecord, hq, true_and]
    cases ht : tagAt par P o with
    | none => rfl
    | some t => simp [blockRecord_ok tr ⟨hqi, hrest⟩ h2 hq ht]

theorem pass2_ok {B : List Nat} (tr : Scalar) (h1 : ∀ o ∈ B, pass1Readable par P o)
    (h2 : ∀ o ∈ B, pass2Readable par P o) :
    pass2 par P tr B = .ok ((B.filter (givesRecord par P)).map (recordAt par P tr)) :=
  collect_eq_filter_map fun o ho => pass2Block_ok tr (h1 o ho) (h2 o ho)

/-- Pass 2 marks no record as the last one. -/
theorem blockRecord_last {tr : Scalar} {q g sv : Nat} {t : Tag} {r : Obs}
    (h : blockRecord par P tr o q g sv t = .ok r) : r.last = false := by
  unfold blockRecord at h
  iterate 4
    split at h
    · cases h
  exact Except.ok.inj h ▸ rfl

theorem pass2Block_some {tr : Scalar} {r : Obs} (h : pass2Block par P tr o = .ok (some r)) :
    ∃ q g sv t, blockRecord par P tr o q g sv t = .ok r := by
  unfold pass2Block at h
  split at h
  · cases h
  · split_ifs at h
    · cases h
    · iterate 2
        split at h
        · cases h
      split at h
      · cases h
      · split at h
        · cases h
        · rename_i hr
          obtain rfl := Option.some.inj (Except.ok.inj h)
          exact ⟨_, _, _, _, hr⟩

theorem pass2_last {tr : Scalar} {B : List Nat} {S : List Obs} (h : pass2 par P tr B = .ok S) :
    ∀ r ∈ S, r.last = false := by
  intro r hr
  obtain ⟨o, _, ho⟩ := exists_of_mem_collect h hr
  obtain ⟨q, g, sv, t, hrec⟩ := pass2Block_some ho
  exact blockRecord_last hrec

end Block

end Sys2Proof.Machine
end

section
/-! PROOFS. `RAW.T6` as a whole (43_raw_measurement.md R240 to R249): its ways to end, and on a payload that can be read
through the receive time and the records. -/

namespace Sys2Proof.Machine

/-! The greatest time (43_raw_measurement.md R245, 00_scope.md R16). -/

theorem Val.lt_irrefl (v : Val) : v.lt v = false := by
  cases v <;> simp [Val.lt]

theorem Val.lt_trans {u v w : Val} (huv : u.lt v = true) (hvw : v.lt w = true) : u.lt w = true := by
  cases v with
  | nan => cases u <;> cases huv
  | inf b =>
    have hb : b = false := by cases u <;> simp_all [Val.lt]
    have hb' : b = true := by cases w <;> simp_all [Val.lt]
    simp [hb] at hb'
  | fin n q =>
    cases u with
    | nan => cases huv
    | inf a => cases w <;> simp_all [Val.lt]
    | fin n' p =>
      cases w with
      | nan => cases hvw
      | inf c => exact hvw
      | fin n'' r =>
        simp only [Val.lt, decide_eq_true_eq] at huv hvw ⊢
        exact huv.trans hvw

/-- The greatest of a list is one of it, and none of it is greater. -/
theorem foldl_maxOf_greatest (g : Scalar) (G : List Scalar) :
    G.foldl Scalar.maxOf g ∈ g :: G ∧ ∀ x ∈ g :: G, (G.foldl Scalar.maxOf g).lt x = false := by
  induction G using List.reverseRecOn with
  | nil => exact ⟨List.mem_cons_self, fun x hx => List.mem_singleton.1 hx ▸ Val.lt_irrefl g.val⟩
  | append_singleton G x ih =>
    obtain ⟨hmem, hmax⟩ := ih
    rw [List.foldl_append, List.foldl_cons, List.foldl_nil]
    generalize G.foldl Scalar.maxOf g = y at hmem hmax ⊢
    rw [← List.cons_append]
    cases hlt : y.lt x with
    | false =>
      simp only [Scalar.maxOf, hlt]
      refine ⟨List.mem_append_left _ hmem, fun z hz => ?_⟩
      rcases List.mem_append.1 hz with hz | hz
      · exact hmax z hz
      · rw [List.mem_singleton.1 hz]
        exact hlt
    | true =>
      simp only [Scalar.maxOf, hlt, if_true]
      refine ⟨List.mem_append_right _ List.mem_cons_self, fun z hz => ?_⟩
      rcases List.mem_append.1 hz with hz | hz
      · by_contra hxz
        have hyz : y.lt z = true := Val.lt_trans hlt (Bool.eq_true_of_not_eq_false hxz)
        rw [hmax z hz] at hyz
        cases hyz
      · rw [List.mem_singleton.1 hz]
        exact Val.lt_irrefl x.val

/-- The block at `o` is a GPS candidate that no candidate's time exceeds. -/
structure LatestCandidate (par : Params) (P : List Byte) (o : Nat) : Prop where
  mem : o ∈ blockOffsets P
  candidate : gpsCandidate par P o = true
  latest : ∀ o' ∈ blockOffsets P, gpsCandidate par P o' = true → (timeAt par P o).lt (timeAt par P o') = false

/-- With a candidate, pass 1 gives a list that is not empty, and the greatest of it is the time of a latest one. -/
theorem pass1_latest {par : Params} {P : List Byte} (h : ∀ o ∈ blockOffsets P, pass1Readable par P o)
    (href : ∃ o ∈ blockOffsets P, gpsCandidate par P o = true) :
    ∃ g G o, pass1 par P (blockOffsets P) = .ok (g :: G) ∧ LatestCandidate par P o ∧
      G.foldl Scalar.maxOf g = timeAt par P o := by
  have hmem (x : Scalar) : x ∈ ((blockOffsets P).filter (gpsCandidate par P)).map (timeAt par P) ↔
      ∃ o, (o ∈ blockOffsets P ∧ gpsCandidate par P o = true) ∧ timeAt par P o = x := by
    simp only [List.mem_map, List.mem_filter]
  rw [pass1_ok h]
  cases hG : ((blockOffsets P).filter (gpsCandidate par P)).map (timeAt par P) with
  | nil =>
    obtain ⟨o, ho, hgps⟩ := href
    simpa [hG] using (hmem _).2 ⟨o, ⟨ho, hgps⟩, rfl⟩
  | cons g G =>
    obtain ⟨hin, hmax⟩ := foldl_maxOf_greatest g G
    rw [hG] at hmem
    obtain ⟨o, ⟨ho, hgps⟩, htime⟩ := (hmem _).1 hin
    have hlatest : LatestCandidate par P o :=
      ⟨ho, hgps, fun o' ho' hgps' => htime ▸ hmax _ ((hmem _).2 ⟨o', ⟨ho', hgps'⟩, rfl⟩)⟩
    exact ⟨g, G, o, rfl, hlatest, htime.symm⟩

/-! The ways to end. -/

/-- Where a u16 holds the offset, the `ERR` carries it (10_state.md R45). -/
theorem raise_shortPayload_of_lt (s : State) {off : Nat} (n : Nat) (h : off < 65536) :
    s.raise (.shortPayload off n) = s.erred (shortErr s off n) := by
  rw [State.raise_eq, errRec, errOff_of_lt h]
  rfl

section RawDecode

variable {s : State}

theorem rawDecode_short (h : s.pay.length < 80) : rawDecode s = s.raise (.shortPayload 0 80) := if_pos h

variable (h80 : 80 ≤ s.pay.length)
include h80

theorem rawDecode_pass1_error {e : Exc} (h : pass1 s.par s.pay (blockOffsets s.pay) = .error e) :
    rawDecode s = s.raise e := by
  simp only [rawDecode, rawHdr, Nat.not_lt.2 h80, if_false, blockStarts_eq_blockOffsets, h]

theorem rawDecode_no_reference (h : pass1 s.par s.pay (blockOffsets s.pay) = .ok []) : rawDecode s = s := by
  simp only [rawDecode, rawHdr, Nat.not_lt.2 h80, if_false, blockStarts_eq_blockOffsets, h]

section Reference

variable {g : Scalar} {G : List Scalar} (h : pass1 s.par s.pay (blockOffsets s.pay) = .ok (g :: G))
include h

theorem rawDecode_pass2_error {e : Exc}
    (h2 : pass2 s.par s.pay (snap s.par (G.foldl Scalar.maxOf g)) (blockOffsets s.pay) = .error e) :
    rawDecode s = (s.setTr (snap s.par (G.foldl Scalar.maxOf g))).raise e := by
  simp only [rawDecode, rawHdr, Nat.not_lt.2 h80, if_false, blockStarts_eq_blockOffsets, h, State.setTr_tr, h2]

theorem rawDecode_records {S : List Obs}
    (h2 : pass2 s.par s.pay (snap s.par (G.foldl Scalar.maxOf g)) (blockOffsets s.pay) = .ok S) :
    rawDecode s = ((s.setTr (snap s.par (G.foldl Scalar.maxOf g))).setStore S).emit
      ((markLast (sortObs s.par S)).map Event.obs) := by
  simp only [rawDecode, rawHdr, Nat.not_lt.2 h80, if_false, blockStarts_eq_blockOffsets, h, State.setTr_tr, h2]

end Reference
end RawDecode

theorem exec_rawT6 (s : State) : exec .rawT6 s = .next (rawDecode s) := rfl

/-- Settles O37: the raw payload level compares the whole byte with 6. -/
theorem otherDiscriminatorsEmitNothing : Obligations.OtherDiscriminatorsEmitNothing :=
  fun _ t ht => ⟨(decodeRaw_eq t).trans (if_neg ht), rfl⟩

/-- Settles O38: below 80 bytes the header check fails; at 80 bytes there is no block. -/
theorem rawHeaderCheck : Obligations.RawHeaderCheck := by
  intro s
  constructor
  · intro h
    rw [exec_rawT6, rawDecode_short h, raise_shortPayload_of_lt s 80 (by decide)]
  · intro h
    have hnone : blockOffsets s.pay = [] := by simp [blockOffsets, h]
    rw [exec_rawT6, rawDecode_no_reference h.ge (by rw [hnone]; rfl)]

/-- Settles O40: pass 1 gives no candidate. -/
theorem noGpsReferenceNoOutput : Obligations.NoGpsReferenceNoOutput := by
  intro s h80 hread hnone
  have hfilter : (blockOffsets s.pay).filter (gpsCandidate s.par s.pay) = [] :=
    List.filter_eq_nil_iff.2 fun o ho => by simp [hnone o ho]
  rw [exec_rawT6, rawDecode_no_reference h80 (by rw [pass1_ok hread, hfilter]; rfl)]

/-! A payload that both passes read through. -/

/-- The receive time that the block at `o` gives as the reference (43_raw_measurement.md R249). -/
def receiveTime (par : Params) (P : List Byte) (o : Nat) : Scalar :=
  writtenSnap par.numerics par.roundMode (timeAt par P o)

/-- The records of the qualifying blocks, in block order, for a receive time. -/
def recordsOf (par : Params) (P : List Byte) (tr : Scalar) : List Obs :=
  ((blockOffsets P).filter (givesRecord par P)).map (recordAt par P tr)

/-- On such a payload `RAW.T6` takes its receive time from a latest candidate and emits the records. -/
theorem rawDecode_of_decodable {s : State} (h : Decodable s.par s.pay) :
    ∃ o tr, LatestCandidate s.par s.pay o ∧ tr = receiveTime s.par s.pay o ∧
      rawDecode s = ((s.setTr tr).setStore (recordsOf s.par s.pay tr)).emit
        ((markLast (sortObs s.par (recordsOf s.par s.pay tr))).map Event.obs) := by
  obtain ⟨g, G, o, hG, ho, htime⟩ := pass1_latest h.pass1 h.reference
  have htr : snap s.par (G.foldl Scalar.maxOf g) = receiveTime s.par s.pay o := by
    rw [htime, snap_eq_writtenSnap, receiveTime]
  refine ⟨o, _, ho, rfl, ?_⟩
  rw [← htr]
  exact rawDecode_records h.header hG (pass2_ok _ h.pass1 h.pass2)

/-- The state `RAW.T6` leaves on such a payload. -/
theorem exec_rawT6_of_decodable {s t : State} (h : Decodable s.par s.pay) (ht : exec .rawT6 s = .next t) :
    ∃ o, LatestCandidate s.par s.pay o ∧ t.tr = receiveTime s.par s.pay o ∧ t.trValid = true ∧
      t.store = recordsOf s.par s.pay t.tr := by
  obtain ⟨o, tr, ho, htr, hdec⟩ := rawDecode_of_decodable h
  obtain rfl : rawDecode s = t := Host.Outcome.next.inj ht
  rw [hdec]
  exact ⟨o, ho, htr, rfl, rfl⟩

/-- A relation between each qualifying block and its record is one between the blocks and the store. -/
theorem forall₂_recordsOf {par : Params} {P : List Byte} {tr : Scalar} {R : Nat → Obs → Prop}
    (h : ∀ o ∈ blockOffsets P, givesRecord par P o = true → R o (recordAt par P tr o)) :
    List.Forall₂ R ((blockOffsets P).filter (givesRecord par P)) (recordsOf par P tr) := by
  rw [recordsOf, List.forall₂_map_right_iff, List.forall₂_same]
  intro o ho
  obtain ⟨hin, hgives⟩ := List.mem_filter.1 ho
  exact h o hin hgives

end Sys2Proof.Machine
end

section
/-! PROOFS. The order of the records (43_raw_measurement.md R262): the sort is stable, and marking the final record
touches nothing but its `last` bit. -/

namespace Sys2Proof.Machine

/-! Marking the final record. -/

theorem unmarked_of_last {o : Obs} (h : o.last = false) : unmarked o = o := by
  cases o
  cases h
  rfl

/-- Records none of which is marked are their own unmarked ones. -/
theorem map_unmarked_of_last {os : List Obs} (h : ∀ o ∈ os, o.last = false) : os.map unmarked = os :=
  (List.map_congr_left fun o ho => unmarked_of_last (h o ho)).trans (List.map_id' os)

theorem map_unmarked_markLast (os : List Obs) : (markLast os).map unmarked = os.map unmarked := by
  induction os with
  | nil => rfl
  | cons o os ih =>
    cases os with
    | nil => rfl
    | cons o' os => exact congrArg (unmarked o :: ·) ih

/-- `last` is 1 on the final record only. -/
theorem markLast_getElem_last (os : List Obs) (k : Nat) (h : k < (markLast os).length) :
    ((markLast os)[k]).last = decide (k + 1 = (markLast os).length) := by
  induction os generalizing k with
  | nil => cases h
  | cons o os ih =>
    cases os with
    | nil =>
      obtain rfl : k = 0 := Nat.lt_one_iff.1 h
      rfl
    | cons o' os =>
      cases k with
      | zero => simp [markLast, markLast_length]
      | succ k => simpa [markLast] using ih k (by simpa [markLast] using h)

/-! The sort. -/

/-- The order of R262 as a relation. -/
def KeyLe (par : Params) (a b : Obs) : Prop :=
  obsRank par a < obsRank par b ∨ (obsRank par a = obsRank par b ∧ a.prn.toNat ≤ b.prn.toNat)

theorem obsLe_iff {par : Params} {a b : Obs} : obsLe par a b = true ↔ KeyLe par a b := decide_eq_true_iff

theorem sortObs_perm (par : Params) (os : List Obs) : (sortObs par os).Perm os := List.perm_insertionSort _ os

theorem sortObs_pairwise (par : Params) (os : List Obs) : (sortObs par os).Pairwise (KeyLe par) := by
  have : Std.Total (fun a b => obsLe par a b = true) := ⟨fun a b => by
    simp only [obsLe_iff, KeyLe]
    omega⟩
  have : IsTrans Obs (fun a b => obsLe par a b = true) := ⟨fun a b c => by
    simp only [obsLe_iff, KeyLe]
    omega⟩
  exact (List.pairwise_insertionSort _ os).imp obsLe_iff.1

/-- Records that are in order among each other keep their places: they are a sorted part of the list, which an insertion
sort leaves as it is. -/
theorem sortObs_filter {par : Params} {keep : Obs → Bool} (h : ∀ a b, keep a = true → keep b = true → KeyLe par a b)
    (os : List Obs) : (sortObs par os).filter keep = os.filter keep := by
  have hsorted : (os.filter keep).Pairwise (fun a b => obsLe par a b = true) :=
    List.pairwise_of_forall_mem_list fun a ha b hb =>
      obsLe_iff.2 (h a b (List.mem_filter.1 ha).2 (List.mem_filter.1 hb).2)
  have hsub : (os.filter keep).Sublist ((sortObs par os).filter keep) := by
    have hpart := (List.sublist_insertionSort hsorted List.filter_sublist).filter keep
    rwa [List.filter_filter, funext fun o => Bool.and_self (keep o)] at hpart
  exact (hsub.eq_of_length ((sortObs_perm par os).filter keep).length_eq.symm).symm

/-- Records of one key are in order among each other. -/
theorem sortObs_filter_key (par : Params) (os : List Obs) (r : Nat) (p : BitVec 9) :
    (sortObs par os).filter (fun o => obsRank par o = r ∧ o.prn = p) =
      os.filter (fun o => obsRank par o = r ∧ o.prn = p) := by
  refine sortObs_filter (fun a b ha hb => .inr ?_) os
  obtain ⟨har, hap⟩ := of_decide_eq_true ha
  obtain ⟨hbr, hbp⟩ := of_decide_eq_true hb
  exact ⟨har.trans hbr.symm, by rw [hap, hbp]⟩

/-! The emitted records. -/

theorem singleton_err_ne_map_obs (e : ErrRec) (os : List Obs) : [Event.err e] ≠ os.map Event.obs := by
  cases os <;> simp

/-- When events of records are added, they are the marked sorted records of the store, of which none is marked. -/
theorem rawDecode_emits_obs {s : State} {os : List Obs} (hne : os ≠ [])
    (h : (rawDecode s).evq = s.evq ++ os.map Event.obs) :
    os = markLast (sortObs s.par (rawDecode s).store) ∧ ∀ o ∈ (rawDecode s).store, o.last = false := by
  rcases rawDecode_cases s with ⟨e, he⟩ | he | ⟨v, e, he⟩ | ⟨v, S, hS, he⟩
  · rw [he] at h
    exact absurd (List.append_cancel_left h) (singleton_err_ne_map_obs _ os)
  · rw [he] at h
    exact absurd (List.map_eq_nil_iff.1 (List.self_eq_append_right.1 h)) hne
  · rw [he] at h
    exact absurd (List.append_cancel_left h) (singleton_err_ne_map_obs _ os)
  · rw [he] at h ⊢
    have hos : (markLast (sortObs s.par S)).map Event.obs = os.map Event.obs := List.append_cancel_left h
    have hinj : Function.Injective Event.obs := fun _ _ => Event.obs.inj
    exact ⟨(List.map_injective_iff.2 hinj hos).symm, pass2_last hS⟩

/-- Settles O45: but for the marks, the emitted records are the stable sort of the store. -/
theorem recordsAreEmittedSorted : Obligations.RecordsAreEmittedSorted := by
  intro s t os ht hne hevq
  obtain rfl : rawDecode s = t := Host.Outcome.next.inj ht
  obtain ⟨hos, hlast⟩ := rawDecode_emits_obs hne hevq
  generalize (rawDecode s).store = S at hos hlast ⊢
  have hunmarked : os.map unmarked = sortObs s.par S := by
    rw [hos, map_unmarked_markLast]
    exact map_unmarked_of_last fun o ho => hlast o ((sortObs_perm s.par S).mem_iff.1 ho)
  refine ⟨?_, fun r p => ?_, fun k hk => ?_⟩
  · have hsorted := sortObs_pairwise s.par S
    rw [← hunmarked, List.pairwise_map] at hsorted
    exact hsorted
  · rw [hunmarked, sortObs_filter_key]
  · subst hos
    exact markLast_getElem_last _ k hk

end Sys2Proof.Machine
end

section
/-! PROOFS. The records of a payload that both passes read through (43_raw_measurement.md R250 to R261): their raw
fields, their derived fields under either `NUMERICS`, and what these are under `EXACT`. -/

namespace Sys2Proof.Machine

/-! The raw fields. -/

theorem byteAt_lt (P : List Byte) (k : Nat) : byteAt P k < 256 := (P.getD k 0).isLt

section Record

variable {par : Params} {P : List Byte} {o : Nat} (tr : Scalar)

/-- The record's fields are wide enough for what the block's reads give. -/
theorem recordAt_rawFields (h1 : pass1Readable par P o) (h2 : pass2Readable par P o)
    (hgives : givesRecord par P o = true) : RawFields par P o (recordAt par P tr o) := by
  obtain ⟨hq, htag⟩ := of_decide_eq_true hgives
  obtain ⟨_, htime⟩ := h1.2 hq
  obtain ⟨hdop, hsnr, hphase⟩ := (h2 hq).2 htag
  exact {
    gnss := rfl
    prn := by
      have hsv := byteAt_lt P (o + par.blk.sv)
      refine (BitVec.toNat_ofNat ..).trans (Nat.mod_eq_of_lt ?_)
      split_ifs <;> omega
    qi := (BitVec.toNat_ofNat ..).trans (Nat.mod_eq_of_lt (qualityAt_lt par P o))
    rawTime := toInt_ofInt_twos (by decide) (leSum_lt htime)
    rawAdr := by
      rcases Nat.lt_or_ge (qualityAt par P o) 6 with hlow | hhigh
      · simp [recordAt, hlow]
      · simp only [recordAt, if_neg (Nat.not_lt.2 hhigh)]
        exact toInt_ofInt_twos (by decide) (leSum_lt (hphase hhigh).2)
    rawDop := toInt_ofInt_twos (by decide) (leSum_lt hdop)
    rawSnr := (BitVec.toNat_ofNat ..).trans (Nat.mod_eq_of_lt (leSum_lt hsnr))
    half := rfl
    last := rfl }

theorem recordsOf_last {r : Obs} (h : r ∈ recordsOf par P tr) : r.last = false := by
  obtain ⟨o, _, rfl⟩ := List.mem_map.1 h
  rfl

end Record

/-- Settles O41: the store is the records of the qualifying blocks, and what is emitted is a rearrangement of it. -/
theorem rawRecordsOfQualifyingBlocks : Obligations.RawRecordsOfQualifyingBlocks := by
  intro s h
  obtain ⟨o, tr, _, _, hdec⟩ := rawDecode_of_decodable h
  refine ⟨_, markLast (sortObs s.par (recordsOf s.par s.pay tr)), congrArg Host.Outcome.next hdec, rfl,
    forall₂_recordsOf fun o ho hgives => recordAt_rawFields tr (h.pass1 o ho) (h.pass2 o ho) hgives, ?_⟩
  have hperm := (sortObs_perm s.par (recordsOf s.par s.pay tr)).map unmarked
  rw [map_unmarked_of_last (os := recordsOf _ _ _) fun r => recordsOf_last tr] at hperm
  rw [map_unmarked_markLast]
  exact hperm

/-! The derived fields. -/

/-- The pseudorange for every kind of `C_LIGHT` (log 12). -/
theorem rangeOf_spec (par : Params) (tau : Scalar) : RangeOf par tau (rangeOf par tau) where
  rational _ hc := rangeOf_rational hc tau
  rounded _ hc hm := rangeOf_rounded hc hm tau
  product w q hc hm htau := by
    rw [rangeOf_product hc hm, htau]
    rfl

theorem recordAt_derivedFields (par : Params) (P : List Byte) (tr : Scalar) (o : Nat) :
    DerivedFields par P tr o (recordAt par P tr o) where
  tr := rfl
  tau := rfl
  p := rangeOf_spec par _
  d := rfl
  snr := rfl
  lCp := rfl

/-- Settles O42: each record is made of the written operations. -/
theorem rawDerivedFields : Obligations.RawDerivedFields := by
  intro s t h ht
  obtain ⟨_, _, _, _, hstore⟩ := exec_rawT6_of_decodable h ht
  rw [hstore]
  exact forall₂_recordsOf fun o _ _ => recordAt_derivedFields s.par s.pay t.tr o

/-! The derived fields under `EXACT`. -/

theorem writtenTime_exact (r : Int) : writtenTime .exact r = .exact (r / (1000 * 2 ^ 32)) := by
  rw [writtenTime, ofInt_exact, ofInt_exact, ofRat_exact, mul_exact, div_exact _ _ (by norm_num)]
  congr 1
  push_cast
  ring

theorem writtenPhase_exact (ra : Int) (h : Bool) :
    writtenPhase .exact ra h = .exact (ra / 2 ^ 32 + if h then 1 / 2 else 0) := by
  rw [← adrOf_eq_writtenPhase, adrOf_exact, halfCycle]

theorem writtenDoppler_exact (rd : Int) : writtenDoppler .exact rd = .exact (rd / 4096) := by
  rw [writtenDoppler, ofInt_exact, ofInt_exact, ofRat_exact, mul_exact, div_exact _ _ (by norm_num)]
  congr 1
  push_cast
  ring

theorem writtenSnap_exact (mode : RoundMode) (x : Rat) :
    writtenSnap .exact mode (.exact x) = .exact (roundRat mode ((x + 8 / 100) * 10) / 10) := by
  have hquot : (x + 8 / 100) / (1 / 10) = (x + 8 / 100) * 10 := by ring
  rw [writtenSnap, ofRat_exact, ofRat_exact, add_exact, div_exact _ _ (by norm_num), round_exact, mul_exact, hquot]
  congr 1
  ring

section Exact

variable {par : Params} (hm : par.numerics = .exact)
include hm

theorem timeAt_exact (P : List Byte) (o : Nat) : timeAt par P o = .exact (exactTimeAt par P o) := by
  rw [timeAt, hm, writtenTime_exact, exactTimeAt]

/-- The pseudorange stands for the product, whatever real `C_LIGHT` is. -/
theorem rangeDenotes_of_rangeOf {q : Rat} {p : Pseudorange} (h : RangeOf par (.exact q) p) (c : ℝ)
    (hc : IsLightSpeed par.cLight c) : RangeDenotes c p (q * c) := by
  cases hlight : par.cLight with
  | rational l =>
    rw [hlight] at hc
    obtain rfl : c = (l : ℝ) := hc
    have hp := h.rational l hlight
    rw [hm, ofRat_exact, mul_exact] at hp
    rw [hp]
    exact (Rat.cast_mul q l).symm
  | irrational w =>
    rw [h.product w q hlight hm rfl]
    split_ifs with hq
    · simp [RangeDenotes, hq]
    · rfl

theorem exactFields_of_derivedFields {P : List Byte} {q : Rat} {o : Nat} {r : Obs}
    (h : DerivedFields par P (.exact q) o r) : ExactFields par P q o r := by
  have htau : r.tau = .exact (weekWrapRat (q - rawTimeAt par P o / (1000 * 2 ^ 32))) := by
    rw [h.tau, timeAt_exact hm, hm, sub_exact, writtenWrap_exact, exactTimeAt]
  exact {
    tr := h.tr
    tau := htau
    p := rangeDenotes_of_rangeOf hm (htau ▸ h.p)
    d := by rw [h.d, hm, writtenDoppler_exact]
    snr := by
      rw [h.snr, hm, ofInt_exact, ofInt_exact, div_exact _ _ (by norm_num)]
      norm_num
    lCp := by
      rw [h.lCp, hm, writtenPhase_exact]
      split_ifs <;> simp }

end Exact

/-- Settles O43: the written operations under `EXACT` are those of the rationals. -/
theorem rawExactFields : Obligations.RawExactFields := by
  intro s t hm h ht
  obtain ⟨o, _, htr, _, hstore⟩ := exec_rawT6_of_decodable h ht
  rw [receiveTime, timeAt_exact hm, hm, writtenSnap_exact] at htr
  refine ⟨_, htr, ?_⟩
  rw [hstore, htr]
  exact forall₂_recordsOf fun o _ _ => exactFields_of_derivedFields hm (recordAt_derivedFields s.par s.pay _ o)

/-- Settles O44: pass 1 takes a greatest candidate, and under `EXACT` its snap is the nearest tick. -/
theorem referenceTimeIsTheSnappedMaximum : Obligations.ReferenceTimeIsTheSnappedMaximum := by
  intro s t h ht
  obtain ⟨o, ho, htr, hvalid, _⟩ := exec_rawT6_of_decodable h ht
  refine ⟨⟨o, ho.mem, ho.candidate, ho.latest, htr, hvalid⟩, fun hm => ?_⟩
  refine ⟨exactTimeAt s.par s.pay o, roundRat s.par.roundMode ((exactTimeAt s.par s.pay o + 8 / 100) * 10),
    ⟨o, ho.mem, ho.candidate, rfl⟩, fun o' ho' hgps => ?_, nearestTick_roundRat _ _, ?_⟩
  · have hlate := ho.latest o' ho' hgps
    rw [timeAt_exact hm, timeAt_exact hm, lt_exact] at hlate
    exact not_lt.1 (of_decide_eq_false hlate)
  · rw [htr, receiveTime, timeAt_exact hm, hm, writtenSnap_exact]

end Sys2Proof.Machine
end

section
/-! PROOFS. How a partial last block fails (43_raw_measurement.md R263), at the default block layout. -/

namespace Sys2Proof.Machine

section Partial

variable {s : State} (hblk : s.par.blk = defaultBlk)
include hblk

/-- At the default layout every field lies inside the block. -/
theorem readable_of_whole {p : Nat} (h : p + 64 ≤ s.pay.length) :
    pass1Readable s.par s.pay p ∧ pass2Readable s.par s.pay p := by
  simp only [pass1Readable, pass2Readable, hblk, defaultBlk]
  exact ⟨⟨by omega, fun _ => ⟨by omega, by omega⟩⟩,
    fun _ => ⟨by omega, fun _ => ⟨by omega, by omega, fun _ => ⟨by omega, by omega⟩⟩⟩⟩

variable {k o : Nat} (ho : o = 80 + 64 * k) (hlt : o < s.pay.length) (hle : s.pay.length ≤ o + 64)
include ho hlt hle

/-- The blocks are whole ones and the last one. -/
theorem blockOffsets_partial :
    ∃ B, blockOffsets s.pay = B ++ [o] ∧
      ∀ p ∈ B, pass1Readable s.par s.pay p ∧ pass2Readable s.par s.pay p := by
  subst ho
  refine ⟨_, blockOffsets_eq_append hlt hle, fun p hp => readable_of_whole hblk ?_⟩
  obtain ⟨j, hj, rfl⟩ := List.mem_map.1 hp
  have := List.mem_range.1 hj
  omega

/-- The last block's exception in pass 1 is that of the message. -/
theorem rawDecode_of_pass1Block_error {e : Exc} (h : pass1Block s.par s.pay o = .error e) :
    rawDecode s = s.raise e := by
  obtain ⟨B, hB, hread⟩ := blockOffsets_partial hblk ho hlt hle
  refine rawDecode_pass1_error (by omega) ?_
  rw [hB]
  exact collect_append_error (fun p hp => ⟨_, pass1Block_ok (hread p hp).1⟩) h

/-- Once pass 1 has read the last block and found a reference, the last block's exception in pass 2 is that of the
message. -/
theorem rawDecode_of_pass2Block_error {e : Exc} (h1 : pass1Readable s.par s.pay o)
    (href : ∃ o' ∈ blockOffsets s.pay, gpsCandidate s.par s.pay o' = true)
    (h : ∀ tr, pass2Block s.par s.pay tr o = .error e) : ∃ tr, rawDecode s = (s.setTr tr).raise e := by
  obtain ⟨B, hB, hread⟩ := blockOffsets_partial hblk ho hlt hle
  have hread1 : ∀ p ∈ blockOffsets s.pay, pass1Readable s.par s.pay p := by
    intro p hp
    rcases List.mem_append.1 (hB ▸ hp) with hp | hp
    · exact (hread p hp).1
    · exact List.mem_singleton.1 hp ▸ h1
  obtain ⟨g, G, _, hG, _⟩ := pass1_latest hread1 href
  refine ⟨_, rawDecode_pass2_error (by omega) hG ?_⟩
  rw [hB]
  exact collect_append_error (fun p hp => ⟨_, pass2Block_ok _ (hread p hp).1 (hread p hp).2⟩) (h _)

end Partial

section Block

variable {par : Params} {P : List Byte} {o : Nat}

theorem pass1Block_qi_short (h : P.length ≤ o + par.blk.qi) :
    pass1Block par P o = .error (.shortPayload (o + par.blk.qi) 1) := by
  simp only [pass1Block, blkQi_short h]

variable (hqi : o + par.blk.qi + 1 ≤ P.length) (hq : 4 ≤ qualityAt par P o)
include hqi hq

theorem pass1Block_gnss_short (h : P.length ≤ o + par.blk.gnss) :
    pass1Block par P o = .error (.shortPayload (o + par.blk.gnss) 1) := by
  simp only [pass1Block, blkQi_ok hqi, qiMin, Nat.not_lt.2 hq, if_false, blkGnss_short h]

theorem pass2Block_sv_short (tr : Scalar) (hgnss : o + par.blk.gnss + 1 ≤ P.length) (h : P.length ≤ o + par.blk.sv) :
    pass2Block par P tr o = .error (.shortPayload (o + par.blk.sv) 1) := by
  have hq7 : ¬qiMax < qualityAt par P o := Nat.not_lt.2 (Nat.le_of_lt_succ (qualityAt_lt par P o))
  simp only [pass2Block, blkQi_ok hqi, qiMin, Nat.not_lt.2 hq, hq7, or_self, if_false, blkGnss_ok hgnss, blkSv_short h]

end Block

/-- Settles O46: with fewer than 42 bytes the quality byte is missing, with fewer than 57 the code, both in pass 1; with
57 the satellite number, in pass 2. -/
theorem partialLastBlock : Obligations.PartialLastBlock := by
  intro s k o hblk hlen ho hlt hpartial
  have hqi : s.par.blk.qi = 41 := by rw [hblk]; rfl
  have hgnss : s.par.blk.gnss = 56 := by rw [hblk]; rfl
  have hsv : s.par.blk.sv = 57 := by rw [hblk]; rfl
  have htime : s.par.blk.rawTime = 0 := by rw [hblk]; rfl
  refine ⟨fun h => ?_, fun h42 h56 hq => ?_, fun h57 hq href => ?_⟩
  · have hblock := pass1Block_qi_short (par := s.par) (P := s.pay) (o := o) (by omega)
    rw [exec_rawT6, rawDecode_of_pass1Block_error hblk ho hlt hpartial.le hblock, hqi,
      raise_shortPayload_of_lt s 1 (by omega)]
  · have hblock := pass1Block_gnss_short (par := s.par) (P := s.pay) (o := o) (by omega) hq (by omega)
    rw [exec_rawT6, rawDecode_of_pass1Block_error hblk ho hlt hpartial.le hblock, hgnss]
    exact ⟨errOff s.pay (o + 56), errOff_of_lt, rfl⟩
  · have hblock tr := pass2Block_sv_short (par := s.par) (P := s.pay) (o := o) (by omega) hq tr (by omega) (by omega)
    have hread : pass1Readable s.par s.pay o := ⟨by omega, fun _ => ⟨by omega, by omega⟩⟩
    obtain ⟨tr, htr⟩ := rawDecode_of_pass2Block_error hblk ho hlt hpartial.le hread href hblock
    refine ⟨tr, ?_⟩
    rw [exec_rawT6, htr, hsv, raise_shortPayload_of_lt _ 1 (by omega)]
    rfl

end Sys2Proof.Machine
end

section
/-! PROOFS. The decoders keep nothing of one message for the next (43_raw_measurement.md R265, 10_state.md R38): the
events they add are the same in any two states with the same parameters and message. -/

namespace Sys2Proof.Machine

/-- The two states have the same parameters and the same message under decode. -/
structure SameMessage (s s' : State) : Prop where
  par : s'.par = s.par
  cls : s'.cls = s.cls
  id : s'.id = s.id
  pay : s'.pay = s.pay

/-- Both outcomes are next states, with the same events added to those pending in `s` and in `s'`. -/
def AddsAlike (s s' : State) (r r' : Host.Outcome State Fault Refusal) : Prop :=
  ∃ t t' E, r = .next t ∧ r' = .next t' ∧ t.evq = s.evq ++ E ∧ t'.evq = s'.evq ++ E

theorem AddsAlike.emit (s s' : State) (E : List Event) : AddsAlike s s' (.next (s.emit E)) (.next (s'.emit E)) :=
  ⟨_, _, E, rfl, rfl, rfl, rfl⟩

theorem AddsAlike.same (s s' : State) : AddsAlike s s' (.next s) (.next s') :=
  ⟨s, s', [], rfl, rfl, (List.append_nil _).symm, (List.append_nil _).symm⟩

namespace SameMessage

variable {s s' : State} (h : SameMessage s s')
include h

theorem setTr (v : Scalar) : SameMessage (s.setTr v) (s'.setTr v) := ⟨h.par, h.cls, h.id, h.pay⟩

theorem setFrm (F : BitVec 240) : SameMessage (s.setFrm F) (s'.setFrm F) := ⟨h.par, h.cls, h.id, h.pay⟩

/-- The `ERR` record is made of the message. -/
theorem raise (e : Exc) : AddsAlike s s' (.next (s.raise e)) (.next (s'.raise e)) :=
  ⟨_, _, [.err (errRec s.cls s.id s.pay e)], rfl, rfl, rfl, by rw [State.raise_eq, h.cls, h.id, h.pay]⟩

theorem execRawT6 : AddsAlike s s' (execRawT6 s) (execRawT6 s') := by
  simp only [Machine.execRawT6, Machine.rawDecode, h.par, h.pay]
  split_ifs
  · exact h.raise _
  · cases pass1 s.par s.pay (blockStarts s.pay.length) with
    | error e => exact h.raise e
    | ok G =>
      cases G with
      | nil => exact .same s s'
      | cons g G =>
        simp only [State.setTr_tr]
        generalize snap s.par (G.foldl Scalar.maxOf g) = v
        cases pass2 s.par s.pay v (blockStarts s.pay.length) with
        | error e => exact (h.setTr v).raise e
        | ok S => exact .emit ((s.setTr v).setStore S) ((s'.setTr v).setStore S) _

theorem selectSubframe (hfrm : s'.frm = s.frm) :
    AddsAlike s s' (selectSubframe s) (selectSubframe s') := by
  simp only [Machine.selectSubframe, execSfBad, execSf1, execSf23, execSf45, h.par, hfrm]
  split_ifs
  · exact h.raise _
  · exact .emit s s' _
  · exact .emit s s' _
  · exact .emit s s' _

theorem execNavGps : AddsAlike s s' (execNavGps s) (execNavGps s') := by
  simp only [Machine.execNavGps, h.pay]
  cases readWords s.pay with
  | error e => exact h.raise e
  | ok ws => exact (h.setFrm _).selectSubframe rfl

theorem execTrkRaw : AddsAlike s s' (execTrkRaw s) (execTrkRaw s') := by
  simp only [Machine.execTrkRaw, h.pay]
  cases rdU8 s.pay 0 with
  | error e => exact h.raise e
  | ok t =>
    dsimp only
    split_ifs
    · exact h.execRawT6
    · exact .same s s'

theorem execTrkNav : AddsAlike s s' (execTrkNav s) (execTrkNav s') := by
  simp only [Machine.execTrkNav, h.pay, h.par]
  cases rdU8 s.pay s.par.navGnssOff with
  | error e => exact h.raise e
  | ok g =>
    dsimp only
    split_ifs
    · exact h.execNavGps
    · exact .same s s'

end SameMessage

/-- Settles O48: each of the four decoders is a case of `SameMessage`. -/
theorem decodersAreStateless : Obligations.DecodersAreStateless := by
  intro i s s' hi hpar hcls hid hpay
  have h : SameMessage s s' := ⟨hpar, hcls, hid, hpay⟩
  simp only [List.mem_cons, List.not_mem_nil, or_false] at hi
  rcases hi with rfl | rfl | rfl | rfl
  · exact h.execTrkRaw
  · exact h.execTrkNav
  · exact h.execRawT6
  · exact h.execNavGps

end Sys2Proof.Machine
end

section
/-! PROOFS. The navigation subframe decoder (44_nav_subframe.md R300 to R315): what the ten word reads give, the bit
string they make, the operation the subframe id selects, and what each subframe emits. -/

namespace Sys2Proof.Machine

/-! The transport words (44_nav_subframe.md R302). -/

section Words

variable {P : List Byte}

theorem readWords_ok (h : 53 ≤ P.length) :
    readWords P = .ok ((List.range navWords).map fun i => leSum P (wordOff i) 4) := by
  have hread : ∀ i ∈ List.range navWords, rdU32 P (wordOff i) = .ok (leSum P (wordOff i) 4) := by
    intro i hi
    have hi10 : i < 10 := List.mem_range.1 hi
    exact memRead_eq_leSum (by simp only [wordOff, navWordOff]; omega)
  have hcollect : readWords P =
      .ok (((List.range navWords).filter fun _ => true).map fun i => leSum P (wordOff i) 4) :=
    collect_eq_filter_map fun i hi => by simp only [hread i hi, if_true]
  rwa [List.filter_true] at hcollect

/-- The words are read in ascending order, so the first one that leaves the payload ends the reading. -/
theorem readWords_short {i : Nat} (hi : i ≤ 9) (hfit : ∀ j < i, wordOff j + 4 ≤ P.length)
    (hmiss : P.length < wordOff i + 4) : readWords P = .error (.shortPayload (wordOff i) 4) := by
  have hsplit : List.range navWords = List.range i ++ i :: (List.range (9 - i)).map (i + 1 + ·) := by
    have hten : navWords = i + 1 + (9 - i) := by
      simp only [navWords]
      omega
    rw [hten, List.range_add, List.range_succ, List.append_assoc, List.singleton_append]
  refine collect_error.2 ⟨_, i, _, hsplit, fun j hj => ⟨some (leSum P (wordOff j) 4), ?_⟩, ?_⟩
  · have hread : rdU32 P (wordOff j) = .ok (leSum P (wordOff j) 4) :=
      memRead_eq_leSum (hfit j (List.mem_range.1 hj))
    simp only [hread]
  · have hread : rdU32 P (wordOff i) = .error (.shortPayload (wordOff i) 4) := memRead_short hmiss
    simp only [hread]

end Words

/-! The bit string (44_nav_subframe.md R303, 30_encoding.md R110): its ten data words are the digits of its number in
base `2^24`, the last word the lowest digit. -/

theorem ofDigits_div_pow_mod {b : Nat} {ds : List Nat} (hds : ∀ d ∈ ds, d < b) {k : Nat} (hk : k < ds.length) :
    Nat.ofDigits b ds / b ^ k % b = ds[k] := by
  have hdigit : ds[k] < b := hds _ (List.getElem_mem hk)
  rw [Nat.ofDigits_div_pow_eq_ofDigits_drop k (Nat.zero_lt_of_lt hdigit) ds hds, List.drop_eq_getElem_cons hk,
    Nat.ofDigits_cons, Nat.add_mul_mod_self_left, Nat.mod_eq_of_lt hdigit]

section BitString

variable {ds : List Nat} (hlen : ds.length = 10) (hds : ∀ d ∈ ds, d < 2 ^ 24)
include hlen hds

theorem frmOf_toNat : (frmOf ds).toNat = Nat.ofDigits (2 ^ 24) ds.reverse := by
  have hfold : ds.foldl (fun acc d => acc * 2 ^ dataWidth + d) 0 = Nat.ofDigits (2 ^ 24) ds.reverse := by
    rw [Nat.ofDigits_eq_foldr, List.foldr_reverse]
    simp only [dataWidth, Nat.cast_id, Nat.add_comm, Nat.mul_comm]
  have hlt : Nat.ofDigits (2 ^ 24) ds.reverse < 2 ^ 240 := by
    have := Nat.ofDigits_lt_base_pow_length (b := 2 ^ 24) (by decide) fun d hd => hds d (List.mem_reverse.1 hd)
    rwa [List.length_reverse, hlen, ← Nat.pow_mul] at this
  rw [frmOf, BitVec.toNat_ofNat, hfold, Nat.mod_eq_of_lt hlt]

theorem frmSum_frmOf {i : Nat} (hi : i < ds.length) : frmSum (frmOf ds) (24 * i) 24 = ds[i] := by
  have hexp : 240 - (24 * i + 24) = 24 * (9 - i) := by omega
  have hplace : 9 - i < ds.reverse.length := by
    rw [List.length_reverse]
    omega
  have hback : ds.length - 1 - (9 - i) = i := by omega
  rw [← bitField_eq_frmSum (by omega), bitField, frmOf_toNat hlen hds, hexp, Nat.pow_mul,
    ofDigits_div_pow_mod (fun d hd => hds d (List.mem_reverse.1 hd)) hplace, List.getElem_reverse]
  simp only [hback]

end BitString

/-- The bit string of the ten data words of a payload. -/
def bitString (P : List Byte) : BitVec 240 := frmOf ((List.range navWords).map (dataAt P))

theorem frmSum_bitString (P : List Byte) {i : Nat} (hi : i < 10) : frmSum (bitString P) (24 * i) 24 = dataAt P i := by
  have hdata : ∀ d ∈ (List.range navWords).map (dataAt P), d < 2 ^ 24 := by
    simp only [List.mem_map]
    rintro d ⟨j, _, rfl⟩
    exact Nat.mod_lt _ (by decide)
  rw [bitString, frmSum_frmOf (by simp [navWords]) hdata (by simpa [navWords] using hi), List.getElem_map,
    List.getElem_range]

theorem bitString_congr {P Q : List Byte} (h : ∀ i < 10, dataAt P i = dataAt Q i) : bitString P = bitString Q :=
  congrArg frmOf (List.map_congr_left fun i hi => h i (List.mem_range.1 hi))

/-! The subframe (44_nav_subframe.md R304 to R306). -/

/-- The range tests of R305 and R306 and the rows of R113 part the eight subframe ids alike. -/
theorem decodeSubframe_eq : ∀ x : BitVec 3, decodeSubframe x =
    if x.toNat < 1 ∨ 5 < x.toNat then .sfBad x
    else if x.toNat = 1 then .sf1
    else if x.toNat ≤ 3 then .sf23 (x.setWidth 1)
    else .sf45 (x.setWidth 1) := by decide

/-- The subframe id selects the operation. -/
theorem selectSubframe_eq_exec (s : State) :
    selectSubframe s = exec (decodeSubframe (sfidOf s.par s.frm)) s := by
  rw [selectSubframe, decodeSubframe_eq]
  split_ifs <;> rfl

theorem sfidOf_eq_frmSum {par : Params} (h : par.sf.sfid + 3 ≤ 240) (frm : BitVec 240) :
    sfidOf par frm = BitVec.ofNat 3 (frmSum frm par.sf.sfid 3) := by
  rw [sfidOf, bfU_eq_frmSum (by decide) (by decide) h, BitVec.ofInt_natCast]

/-- No subframe operation reads the payload: the `ERR` of a bad id carries no offset into it (60_exceptions.md
R352). -/
theorem selectSubframe_withPay (s : State) (P : List Byte) :
    selectSubframe { s with pay := P } = onNext (fun t => { t with pay := P }) (selectSubframe s) := by
  simp only [selectSubframe]
  split_ifs <;> rfl

/-- `NAV` of a subframe other than 1. -/
theorem navRec_of_ne_one (par : Params) (frm : BitVec 240) {x : BitVec 3} (h : x ≠ 1) :
    navRec par frm x = { sfid := x, hasFields := false, fields := none } := by
  have hflag : hasFieldsFlag x = false := decide_eq_false h
  rw [navRec, hflag]
  rfl

/-! The decoder as a whole. -/

theorem execNavGps_of_words {s : State} (h : 53 ≤ s.pay.length) :
    execNavGps s = selectSubframe { s with frm := bitString s.pay } := by
  rw [execNavGps, readWords_ok h]
  simp only [List.map_map]
  rfl

theorem execNavGps_short {s : State} {i : Nat} (hi : i ≤ 9) (hfit : ∀ j < i, wordOff j + 4 ≤ s.pay.length)
    (hmiss : s.pay.length < wordOff i + 4) :
    execNavGps s = .next (s.erred (shortErr s (wordOff i) 4)) := by
  have hoff : wordOff i < 65536 := by
    simp only [wordOff, navWordOff]
    omega
  rw [execNavGps, readWords_short hi hfit hmiss]
  exact congrArg Host.Outcome.next (raise_shortPayload_of_lt s 4 hoff)

/-- Settles O55: word `(L - 13) / 4` of a payload of `L` bytes is the first that does not fit, and below 53 bytes it
is one of the ten. -/
theorem shortNavPayloadNamesTheFirstMissingWord : Obligations.ShortNavPayloadNamesTheFirstMissingWord := by
  intro s h
  have hfit : ∀ j < (s.pay.length - 13) / 4, 13 + 4 * j + 4 ≤ s.pay.length := by omega
  have hmiss : s.pay.length < 13 + 4 * ((s.pay.length - 13) / 4) + 4 := by omega
  have hi : (s.pay.length - 13) / 4 ≤ 9 := by omega
  exact ⟨_, hi, hmiss, hfit, execNavGps_short hi hfit hmiss⟩

/-- Settles O56: the data words are the digits of the bit string, and the decoder's tests on its subframe id select
what the id decodes to. -/
theorem navGpsReassemblesAndSelects : Obligations.NavGpsReassemblesAndSelects := by
  intro s h hsfid
  have hsel := execNavGps_of_words h
  rw [selectSubframe_eq_exec, sfidOf_eq_frmSum hsfid] at hsel
  obtain ⟨u, hu, _⟩ := exec_inner_changesOnlyWork ⟨_, (encode_decodeSubframe
    (BitVec.ofNat 3 (frmSum (bitString s.pay) s.par.sf.sfid 3))).2⟩ { s with frm := bitString s.pay }
  exact ⟨_, u, fun _ => frmSum_bitString s.pay, hu, hsel.trans hu⟩

/-- Settles O60: the bit string is made of the data words, and the subframe reads nothing else. -/
theorem navIgnoresParityAndUnreadBytes : Obligations.NavIgnoresParityAndUnreadBytes := by
  intro s P hs hP hdata
  have hsame : execNavGps { s with pay := P } = onNext (fun t => { t with pay := P }) (execNavGps s) := by
    rw [execNavGps_of_words hs, execNavGps_of_words hP, bitString_congr hdata]
    exact selectSubframe_withPay { s with frm := bitString s.pay } P
  obtain ⟨t, ht, _⟩ := execNavGps_changesOnlyWork s
  exact ⟨t, ht, hsame.trans (onNext_eq_next.2 ⟨t, ht, rfl⟩)⟩

/-- Settles O54: the navigation payload level compares the whole code with 0. -/
theorem otherConstellationsEmitNothing : Obligations.OtherConstellationsEmitNothing :=
  fun _ g hg => ⟨(decodeNav_eq g).trans (if_neg hg), rfl⟩

/-- Settles O58: none of the four ids is 1, the one that carries fields. -/
theorem subframes2To5EmitTheIdOnly : Obligations.Subframes2To5EmitTheIdOnly := by
  have h23 : ∀ lo : BitVec 1, 0b01#2 ++ lo ≠ 1 := by decide
  have h45 : ∀ lo : BitVec 1, 0b10#2 ++ lo ≠ 1 := by decide
  intro s lo
  refine ⟨decodeSubframe_sf23 lo, decodeSubframe_sf45 lo, ?_, ?_⟩
  · rw [← navRec_of_ne_one s.par s.frm (h23 lo)]
    rfl
  · rw [← navRec_of_ne_one s.par s.frm (h45 lo)]
    rfl

/-- Settles O59: the three ids are those the row of `SF.BAD` admits. -/
theorem badSubframeIdIsReported : Obligations.BadSubframeIdIsReported :=
  fun s x hx => ⟨decodeSubframe_sfBad (wf_sfBad.2 hx),
    congrArg Host.Outcome.next (State.raise_eq s (.badSubframeId x))⟩

/-! The fields of subframe 1 (44_nav_subframe.md R307 to R313). -/

theorem frmSum_lt {a n : Nat} (hend : a + n ≤ 240) (frm : BitVec 240) : frmSum frm a n < 2 ^ n :=
  bitField_eq_frmSum hend ▸ bitField_lt frm a n

section Field

variable {a n : Nat} (hn : 1 ≤ n) (hn' : n ≤ 24) (hend : a + n ≤ 240) (frm : BitVec 240)
include hn hn' hend

/-- A record's field of `n` bits holds an unsigned field of `n` bits. -/
theorem toNat_ofInt_bfU : (BitVec.ofInt n (bfU frm a n)).toNat = frmSum frm a n := by
  rw [bfU_eq_frmSum hn hn' hend, BitVec.ofInt_natCast, BitVec.toNat_ofNat,
    Nat.mod_eq_of_lt (frmSum_lt hend frm)]

/-- A record's field of `n` bits holds a signed field of `n` bits. -/
theorem toInt_ofInt_bfS : (BitVec.ofInt n (bfS frm a n)).toInt = twos n (frmSum frm a n) := by
  rw [bfS_eq_twos hn hn' hend, toInt_ofInt_twos hn (frmSum_lt hend frm)]

/-- A signed field of at most 24 bits times a negative power of two is exact. -/
theorem val_scaled_bfS (m : Numerics) {k : Nat} (hk : k ≤ 1074) :
    (scaled m (BitVec.ofInt n (bfS frm a n)).toInt (-k)).val = ratVal (twos n (frmSum frm a n) / 2 ^ k) := by
  obtain ⟨hlow, hhigh⟩ := twos_bounds hn (frmSum_lt hend frm)
  have hpow : (2 : Int) ^ (n - 1) < 2 ^ 53 := by gcongr <;> omega
  rw [toInt_ofInt_bfS hn hn' hend, scaled]
  exact val_mul_pow2_neg m (abs_lt.2 ⟨by omega, by omega⟩) hk

end Field

/-- `iodc` from its two parts (44_nav_subframe.md R310). -/
theorem iodc_toNat (hi : BitVec 2) (lo : Byte) : (hi ++ lo).toNat = hi.toNat * 256 + lo.toNat := by
  have := lo.isLt
  rw [BitVec.toNat_append, Nat.shiftLeft_eq, Nat.mul_comm, ← Nat.two_pow_add_eq_or_of_lt this, Nat.mul_comm]

theorem navFields_subframe1 {par : Params} (h : checkSf par.sf = true) (frm : BitVec 240) :
    Subframe1 par.sf frm (navFields par frm) := by
  obtain ⟨htow, _, hwn, hl2, hura, hhealth, hiodcHi, htgd, hiodcLo, htoc, haf2, haf1, haf0⟩ := of_decide_eq_true h
  have htowRaw := toNat_ofInt_bfU (by decide) (by decide) htow frm
  have htocRaw := toNat_ofInt_bfU (by decide) (by decide) htoc frm
  exact {
    towRaw := htowRaw
    tow := congrArg (· * 6) htowRaw
    wn := toNat_ofInt_bfU (by decide) (by decide) hwn frm
    codeL2 := toNat_ofInt_bfU (by decide) (by decide) hl2 frm
    ura := toNat_ofInt_bfU (by decide) (by decide) hura frm
    health := toNat_ofInt_bfU (by decide) (by decide) hhealth frm
    iodc := (iodc_toNat _ _).trans (by
      rw [toNat_ofInt_bfU (by decide) (by decide) hiodcHi, toNat_ofInt_bfU (by decide) (by decide) hiodcLo])
    tgdRaw := toInt_ofInt_bfS (by decide) (by decide) htgd frm
    tgd := val_scaled_bfS (by decide) (by decide) htgd frm _ (by decide)
    tocRaw := htocRaw
    toc := congrArg (· * 16) htocRaw
    af2Raw := toInt_ofInt_bfS (by decide) (by decide) haf2 frm
    af2 := val_scaled_bfS (by decide) (by decide) haf2 frm _ (by decide)
    af1Raw := toInt_ofInt_bfS (by decide) (by decide) haf1 frm
    af1 := val_scaled_bfS (by decide) (by decide) haf1 frm _ (by decide)
    af0Raw := toInt_ofInt_bfS (by decide) (by decide) haf0 frm
    af0 := val_scaled_bfS (by decide) (by decide) haf0 frm _ (by decide) }

/-- Settles O57: each field lies inside the string, and a scaled one has few enough bits to be exact. -/
theorem subframe1EmitsItsFields : Obligations.Subframe1EmitsItsFields :=
  fun s h => ⟨navFields s.par s.frm, navFields_subframe1 h s.frm, rfl⟩

end Sys2Proof.Machine
end

section
/-! PROOFS. Progress (60_exceptions.md R358): the step from a state of the invariant at which no inner operation is issued
neither faults nor is refused. Both faults are of the append: the invariant bounds the address it writes, and says that
the bytes it then reads were written. -/

namespace Sys2Proof.Machine

/-! What was written can be read back (20_memory.md R73). -/

theorem Memory.fetchRange_of_written {m : Memory} {n : Nat} (h : m.written n) : ∃ bs, m.fetchRange 0 n = .ok bs := by
  refine ⟨_, Memory.fetchRange_ok (f := fun k => (m.read k).getD 0) fun k hk => ?_⟩
  obtain ⟨b, hb⟩ := h k hk
  simp [hb]

theorem Memory.declares_of_written {m : Memory} {n : Nat} (h : m.written n) (hn : 4 ≤ n) : ∃ L, m.declares L := by
  obtain ⟨lo, hlo⟩ := h 2 (by omega)
  obtain ⟨hi, hhi⟩ := h 3 (by omega)
  exact ⟨_, lo, hi, hlo, hhi, rfl⟩

/-! The append. -/

theorem handOn_progress (s : State) (f : FrameRec) : ∃ t, handOn s f = .next t := by
  by_cases h : s.par.checkChecksum = true ∧ f.ckOk = false
  · exact ⟨s, handOn_discards h⟩
  · obtain ⟨u, _, hu⟩ := handOn_dispatches h
    exact ⟨_, hu⟩

theorem complete_progress {s : State} {L : Nat} (h : s.buf.written (L + 6)) : ∃ t, complete s L = .next t := by
  obtain ⟨bs, hbs⟩ := Memory.fetchRange_of_written h
  have hfetch : s.buf.fetchRange 0 (L + hdrLen + trlLen) = .ok bs := hbs
  rw [complete, hfetch]
  exact handOn_progress _ _

/-- The length tests read bytes 2 and 3 from the fourth byte on, and completion reads the bytes counted. -/
theorem afterAppend_progress {s : State} {c : Nat} (h : s.buf.written c) : ∃ t, afterAppend s c = .next t := by
  rcases afterAppend_cases s c with ⟨_, he⟩ | ⟨hc, ⟨e, herr, _⟩ | ⟨L, _, ⟨_, _, he⟩ | ⟨_, rfl, he⟩ | ⟨_, _, he⟩⟩⟩
  · exact ⟨_, he⟩
  · obtain ⟨L, hL⟩ := Memory.declares_of_written h hc
    simp [declaredLength_eq_ok.2 hL] at herr
  · exact ⟨_, he⟩
  · exact he ▸ complete_progress h
  · exact ⟨_, he⟩

theorem Params.le_bufCap_of_legal {par : Params} (h : par.legal = true) : 6 ≤ par.bufCap := by
  simp only [Params.legal, checkBufCap, Bool.and_eq_true, decide_eq_true_eq] at h
  omega

namespace State.Inv

variable {s : State} (h : s.Inv)
include h

/-- The next byte has an address: the header fits the least buffer, and from there on the frame fits. -/
theorem cnt_lt_bufCap (hacc : s.st = .acc) : s.cnt.toNat < s.par.bufCap := by
  have hcap : 6 ≤ s.par.bufCap := Params.le_bufCap_of_legal h.legal
  rcases h.bounded hacc with hc | ⟨_, L, _, hlt, hfits⟩
  · omega
  · omega

theorem execSyncAccAppend_progress (hacc : s.st = .acc) (b : Byte) : ∃ t, execSyncAccAppend b s = .next t := by
  have hwritten : (s.stored b).buf.written (s.cnt.toNat + 1) := Memory.written_write (h.defined hacc) b
  rw [execSyncAccAppend_eq (h.cnt_lt_bufCap hacc)]
  exact afterAppend_progress hwritten

theorem acceptByte_progress (b : Byte) : ∃ t, acceptByte b s = .next t := by
  rcases acceptByte_cases b s with ⟨_, he | he⟩ | ⟨_, he | he⟩ | ⟨hacc, he⟩
  · exact ⟨_, he⟩
  · exact ⟨_, he⟩
  · exact ⟨_, he⟩
  · exact ⟨_, he⟩
  · exact he ▸ h.execSyncAccAppend_progress hacc b

/-! The step. -/

theorem takeMove_progress : ∃ t, takeMove s = .next t := by
  unfold takeMove
  split
  · exact ⟨_, rfl⟩
  · obtain ⟨u, hu⟩ := (h.setInq _).acceptByte_progress _
    exact ⟨_, onNext_eq_next.2 ⟨u, hu, rfl⟩⟩
  · obtain ⟨u, hu⟩ := (h.setInq _).acceptByte_progress _
    exact ⟨_, onNext_eq_next.2 ⟨u, hu, rfl⟩⟩
  · exact ⟨_, rfl⟩

theorem step_progress (hop : s.op = none) : ∃ t, step s = .next t := by
  rcases step_cases s with ⟨_, he⟩ | ⟨_, k, hk, _⟩ | ⟨_, _, _, he⟩ | ⟨_, _, _, he⟩
  · exact ⟨_, he⟩
  · simp [hop] at hk
  · exact ⟨_, he⟩
  · exact he ▸ h.takeMove_progress

end State.Inv

/-- No rule issues an inner operation (log 1). -/
theorem step_op_none {s t : State} (hop : s.op = none) (h : step s = .next t) : t.op = none := by
  cases stepsTo_of_step h with
  | idles is => exact hop
  | resets u level hpar => rfl
  | runsInner hwork => exact congrArg State.op hwork
  | acceptsByte hacc => exact (congrArg State.op (acceptByte_keepsPorts hacc)).trans hop

/-- What every step from a state where it holds leads to a next state with, a run of any length does. -/
theorem reaches_lands {P : State → Prop} (hstep : ∀ s, P s → Lands P (step s)) {s : State} (h : P s) (n : Nat) :
    ∃ t, Reaches n s t ∧ P t := by
  induction n generalizing s with
  | zero => exact ⟨s, reaches_zero.2 rfl, h⟩
  | succ n ih =>
    obtain ⟨u, hu, hPu⟩ := hstep s h
    obtain ⟨t, ht, hPt⟩ := ih hPu
    exact ⟨t, reaches_succ.2 ⟨u, hu, ht⟩, hPt⟩

/-- Settles O12: the step from such a state ends in one. -/
theorem noInputHaltsTheBlock : Obligations.NoInputHaltsTheBlock := by
  have hstep : ∀ s : State, s.Inv ∧ s.op = none → Lands (fun t => t.Inv ∧ t.op = none) (step s) := by
    rintro s ⟨hinv, hop⟩
    obtain ⟨t, ht⟩ := hinv.step_progress hop
    exact ⟨t, ht, invKeptByEveryStep s t hinv ht, step_op_none hop ht⟩
  exact fun s hinv hop n => reaches_lands hstep ⟨hinv, hop⟩ n

end Sys2Proof.Machine
end

section
/-! PROOFS. The reset input and the end of the stream (70_reset_and_hazards.md R380, R382, R384, R390; 60_exceptions.md
R364): a high input gives the reset state, a byte's step that it cuts short delivers a prefix, and with no move to come
nothing happens. -/

namespace Sys2Proof.Machine

/-! The reset input's moves. -/

theorem not_mem_offered (bs : List Byte) (l : Bool) : Input.rst l ∉ offered bs := by simp [offered]

/-- Bytes offered before a move of the reset input stay offered. -/
theorem takeRst_offered_append (bs : List Byte) (level : Bool) (rest : List Input) :
    takeRst (offered bs ++ .rst level :: rest) = some (level, offered bs ++ rest) :=
  takeRst_eq_some.2 ⟨offered bs, rest, rfl, rfl, not_mem_offered bs⟩

/-- A move that leaves the input high, or comes while it was high, resets. -/
theorem State.moveRst_of_high {s : State} {level : Bool} (h : (s.rst || level) = true) :
    s.moveRst level = s.afterReset level := if_pos h

theorem State.waitRst_of_takeRst_some {s : State} {level : Bool} {rest : List Input}
    (h : takeRst s.inq = some (level, rest)) : s.waitRst = (s.setInq rest).moveRst level := by
  rw [State.waitRst, h]

theorem State.waitRst_of_takeRst_none {s : State} (h : takeRst s.inq = none) : s.waitRst = s := by
  rw [State.waitRst, h]

/-! The step of such a move. -/

theorem step_of_rst {s : State} (h : s.rst = true) : step s = .next s.waitRst := by
  rcases step_cases s with ⟨_, he⟩ | ⟨hlow, _⟩ | ⟨hlow, _⟩ | ⟨hlow, _⟩
  · exact he
  all_goals simp [h] at hlow

theorem State.ready.step_rst {s : State} (h : s.ready) {level : Bool} {rest : List Input}
    (hinq : s.inq = .rst level :: rest) : step s = .next ((s.setInq rest).moveRst level) := by
  rw [step_of_ready h, takeMove, hinq]

theorem State.ready.step_byteRst {s : State} (h : s.ready) {b : Byte} {k : Nat} {rest : List Input}
    (hinq : s.inq = .byteRst b k :: rest) :
    step s = onNext (fun t => t.interrupt k) (acceptByte b (s.setInq rest)) := by
  rw [step_of_ready h, takeMove, hinq]

/-- Settles O15: a rise and a release reset, and while the input stays high the block waits. -/
theorem resetFromAnyState : Obligations.ResetFromAnyState := by
  refine ⟨fun s rest hready hinq => ?rises, fun s bs rest hrst hinq => ?released, fun s hrst hstays => ?held⟩
  case rises =>
    rw [hready.step_rst hinq, State.moveRst_of_high (Bool.or_true _)]
    rfl
  case released =>
    have htake : takeRst s.inq = some (false, offered bs ++ rest) := hinq ▸ takeRst_offered_append bs false rest
    have hhigh : ((s.setInq (offered bs ++ rest)).rst || false) = true := (Bool.or_false _).trans hrst
    rw [step_of_rst hrst, State.waitRst_of_takeRst_some htake, State.moveRst_of_high hhigh]
    rfl
  case held =>
    rw [step_of_rst hrst, State.waitRst_of_takeRst_none (takeRst_eq_none.2 hstays)]

theorem State.withPorts_inq (s p : State) : (s.withPorts p).inq = p.inq := rfl

/-- What a reset inside a byte's step leaves, of the state before the byte and of the events its operation made
pending. -/
theorem interrupt_of_acceptByte {b : Byte} {s t : State} (h : acceptByte b s = .next t) (k : Nat) :
    t.interrupt k =
      { State.reset with par := s.par, rst := true, inq := s.inq, out := s.out ++ t.evq.take k } := by
  have hpar : t.par = s.par := acceptByte_par h
  have hinq : t.inq = s.inq := (congrArg State.inq (acceptByte_keepsPorts h)).trans (State.withPorts_inq t s)
  have ⟨hout, _⟩ := acceptByte_addsFrameFirst h
  rw [← hpar, ← hinq, ← hout]
  rfl

/-- Settles O16: the byte's operation leaves the parameters, the moves to come and what was delivered as they are, so
they are in the reset state what they were before the byte. -/
theorem resetInsideAStepDeliversAPrefix : Obligations.ResetInsideAStepDeliversAPrefix := by
  intro s t b k rest i hready hinq hdec hexec
  have haccept : acceptByte b (s.setInq rest) = .next t := by
    rw [acceptByte, State.setInq_st, hdec]
    exact hexec
  calc step s = .next (t.interrupt k) := by rw [hready.step_byteRst hinq, haccept, onNext_next]
    _ = _ := congrArg Host.Outcome.next (interrupt_of_acceptByte haccept k)

/-! The end of the stream. -/

/-- With nothing offered, a step keeps the state: a block that waits for the reset input goes on waiting, and a ready
one has no move to take. -/
theorem step_of_nothing_offered {s : State} (hop : s.op = none) (hinq : s.inq = []) : step s = .next s := by
  have hwait : s.waitRst = s := State.waitRst_of_takeRst_none (by rw [hinq, takeRst])
  rcases step_cases s with ⟨_, he⟩ | ⟨_, k, hk, _⟩ | ⟨_, _, _, he⟩ | ⟨_, _, _, he⟩
  · rw [he, hwait]
  · simp [hop] at hk
  · rw [he, hwait]
  · rw [he, takeMove, hinq]

/-- A state that a step keeps, a run of any length keeps. -/
theorem reaches_self_of_step {s : State} (h : step s = .next s) (n : Nat) : Reaches n s s := by
  induction n with
  | zero => exact reaches_zero.2 rfl
  | succ n ih => exact reaches_succ.2 ⟨s, h, ih⟩

/-- Settles O18: the step keeps the state. -/
theorem nothingOfferedNothingHappens : Obligations.NothingOfferedNothingHappens :=
  fun _ n hop hinq => reaches_self_of_step (step_of_nothing_offered hop hinq) n

end Sys2Proof.Machine
end
